-- ==== Sys2Proof/Word.lean ====
section
/-! DEFINITION. The data words of the block: the byte, the 32-bit register word, the 4-byte word of the key schedule
and the 16-byte block (00_scope.md rules R10, R11; 40_aes_primitives.md rule R106). -/

namespace Sys2Proof

/-- A byte (R10): bit 7 is the most significant, bit `i` the coefficient of `x^i` in GF(2^8). -/
abbrev Byte := BitVec 8

/-- A 32-bit host register (R24). -/
abbrev Word := BitVec 32

/-- What the spec calls a "word" of a byte sequence (R11): four consecutive bytes, `b0` at the lowest address.
It is a column of the AES state (R106) and a word of a key window (R122). It is no integer: nothing adds to it. -/
structure Quad where
  b0 : Byte
  b1 : Byte
  b2 : Byte
  b3 : Byte
deriving DecidableEq, Repr

/-- A 16-byte block (R11), held as the four columns of the AES state (R106): `s[r, c] = B[r + 4c]`, so column `c` is
the bytes `B[4c .. 4c+4)`. -/
structure Block where
  c0 : Quad
  c1 : Quad
  c2 : Quad
  c3 : Quad
deriving DecidableEq, Repr

/-- Four zero bytes. -/
def Quad.zero : Quad := ⟨0, 0, 0, 0⟩

/-- `0^16` (R11). -/
def Block.zero : Block := ⟨Quad.zero, Quad.zero, Quad.zero, Quad.zero⟩

end Sys2Proof
end

