-- ==== Sys2Proof/Syntax.lean ====
section
/-! DEFINITION. The commands: one constructor per row of spec/opcode_table.json (30_encoding.md rules R90 and R91).
A command word carries no operand (R86, R89): the operands are the registers SRC, DST, LEN and ARG and the contexts,
so no constructor has a field. -/

namespace Sys2Proof

/-- The commands of the block, in the table's order. -/
inductive Instr where
  -- System command (44_system.md)
  | nop
  -- Block primitives (40_aes_primitives.md)
  | subbytes
  | shiftrows
  | sbsr
  | isubbytes
  | ishiftrows
  | isrsb
  | mixc
  | imixc
  | ark
  -- Byte functions
  | subb
  | isubb
  | xtime
  | gmul
  | rcon
  -- Word and window functions
  | kcore
  | subword
  | kstep128
  | kstep192
  | kstep256
  | ikstep128
  | ikstep192
  | ikstep256
  -- AESF128 (41_aes_variants.md)
  | aesf128Setkey
  | aesf128Enc
  | aesf128Dec
  | aesf128Clear
  | aesf128Keysize
  | aesf128Blocksize
  -- AESF192 (41_aes_variants.md)
  | aesf192Setkey
  | aesf192Enc
  | aesf192Dec
  | aesf192Clear
  | aesf192Keysize
  | aesf192Blocksize
  -- AESF256 (41_aes_variants.md)
  | aesf256Setkey
  | aesf256Enc
  | aesf256Dec
  | aesf256Clear
  | aesf256Keysize
  | aesf256Blocksize
  -- AEST128 (41_aes_variants.md)
  | aest128Setkey
  | aest128Enc
  | aest128Dec
  | aest128Clear
  | aest128Keysize
  | aest128Blocksize
  -- AEST256 (41_aes_variants.md)
  | aest256Setkey
  | aest256Enc
  | aest256Dec
  | aest256Clear
  | aest256Keysize
  | aest256Blocksize
  -- AESS128 (41_aes_variants.md)
  | aess128Setkey
  | aess128Enc
  | aess128Dec
  | aess128Clear
  | aess128Keysize
  | aess128Blocksize
  -- AESS256 (41_aes_variants.md)
  | aess256Setkey
  | aess256Enc
  | aess256Dec
  | aess256Clear
  | aess256Keysize
  | aess256Blocksize
  -- EAX (42_eax.md)
  | eaxSetkey
  | eaxSetiv
  | eaxAad
  | eaxEnc
  | eaxDec
  | eaxTag
  | eaxChktag
  | eaxClear
  | eaxKeysize
  | eaxIvsize
  | eaxTagsize
  -- XTS (43_xts.md)
  | xtsSetkey
  | xtsSettweak
  | xtsSetsect
  | xtsGetsect
  | xtsEncsect
  | xtsDecsect
  | xtsClear
  | xtsKeysize
  | xtsTweaksize
deriving DecidableEq, Repr

end Sys2Proof
end

