-- ==== Sys2Proof/Decode.lean ====
section
/-! DEFINITION. The decoder and the encoder of the command word (30_encoding.md rules R86, R87, R90, R91, R92). -/

namespace Sys2Proof

/-- Why a command word is reserved (R92). Either reason raises ERR_OPC (R87). -/
inductive Reserved where
  /-- `CMD[31:8]` is not zero. -/
  | rsvdNotZero
  /-- `CMD[7:0]` is no assigned opcode. -/
  | opcodeUnassigned
deriving DecidableEq, Repr

/-- System command (44_system.md): the opcodes of R90. -/
def opcodesSystem : List (Nat × Instr) :=
  [(0x00, .nop)]

/-- Block primitives (40_aes_primitives.md): the opcodes of R90. -/
def opcodesBlock : List (Nat × Instr) :=
  [(0x01, .subbytes), (0x02, .shiftrows), (0x03, .sbsr), (0x04, .isubbytes), (0x05, .ishiftrows), (0x06, .isrsb),
   (0x07, .mixc), (0x08, .imixc), (0x09, .ark)]

/-- Byte functions: the opcodes of R90. -/
def opcodesByte : List (Nat × Instr) :=
  [(0x10, .subb), (0x11, .isubb), (0x12, .xtime), (0x13, .gmul), (0x14, .rcon)]

/-- Word and window functions: the opcodes of R90. -/
def opcodesWord : List (Nat × Instr) :=
  [(0x18, .kcore), (0x19, .subword), (0x1A, .kstep128), (0x1B, .kstep192), (0x1C, .kstep256), (0x1D, .ikstep128),
   (0x1E, .ikstep192), (0x1F, .ikstep256)]

/-- AESF128 (41_aes_variants.md): the opcodes of R91. -/
def opcodesAesf128 : List (Nat × Instr) :=
  [(0x40, .aesf128Setkey), (0x41, .aesf128Enc), (0x42, .aesf128Dec), (0x43, .aesf128Clear),
   (0x44, .aesf128Keysize), (0x45, .aesf128Blocksize)]

/-- AESF192 (41_aes_variants.md): the opcodes of R91. -/
def opcodesAesf192 : List (Nat × Instr) :=
  [(0x48, .aesf192Setkey), (0x49, .aesf192Enc), (0x4A, .aesf192Dec), (0x4B, .aesf192Clear),
   (0x4C, .aesf192Keysize), (0x4D, .aesf192Blocksize)]

/-- AESF256 (41_aes_variants.md): the opcodes of R91. -/
def opcodesAesf256 : List (Nat × Instr) :=
  [(0x50, .aesf256Setkey), (0x51, .aesf256Enc), (0x52, .aesf256Dec), (0x53, .aesf256Clear),
   (0x54, .aesf256Keysize), (0x55, .aesf256Blocksize)]

/-- AEST128 (41_aes_variants.md): the opcodes of R91. -/
def opcodesAest128 : List (Nat × Instr) :=
  [(0x58, .aest128Setkey), (0x59, .aest128Enc), (0x5A, .aest128Dec), (0x5B, .aest128Clear),
   (0x5C, .aest128Keysize), (0x5D, .aest128Blocksize)]

/-- AEST256 (41_aes_variants.md): the opcodes of R91. -/
def opcodesAest256 : List (Nat × Instr) :=
  [(0x60, .aest256Setkey), (0x61, .aest256Enc), (0x62, .aest256Dec), (0x63, .aest256Clear),
   (0x64, .aest256Keysize), (0x65, .aest256Blocksize)]

/-- AESS128 (41_aes_variants.md): the opcodes of R91. -/
def opcodesAess128 : List (Nat × Instr) :=
  [(0x68, .aess128Setkey), (0x69, .aess128Enc), (0x6A, .aess128Dec), (0x6B, .aess128Clear),
   (0x6C, .aess128Keysize), (0x6D, .aess128Blocksize)]

/-- AESS256 (41_aes_variants.md): the opcodes of R91. -/
def opcodesAess256 : List (Nat × Instr) :=
  [(0x70, .aess256Setkey), (0x71, .aess256Enc), (0x72, .aess256Dec), (0x73, .aess256Clear),
   (0x74, .aess256Keysize), (0x75, .aess256Blocksize)]

/-- EAX (42_eax.md): the opcodes of R90. -/
def opcodesEax : List (Nat × Instr) :=
  [(0x80, .eaxSetkey), (0x81, .eaxSetiv), (0x82, .eaxAad), (0x83, .eaxEnc), (0x84, .eaxDec), (0x85, .eaxTag),
   (0x86, .eaxChktag), (0x87, .eaxClear), (0x88, .eaxKeysize), (0x89, .eaxIvsize), (0x8A, .eaxTagsize)]

/-- XTS (43_xts.md): the opcodes of R90. -/
def opcodesXts : List (Nat × Instr) :=
  [(0xA0, .xtsSetkey), (0xA1, .xtsSettweak), (0xA2, .xtsSetsect), (0xA3, .xtsGetsect), (0xA4, .xtsEncsect),
   (0xA5, .xtsDecsect), (0xA6, .xtsClear), (0xA7, .xtsKeysize), (0xA8, .xtsTweaksize)]

/-- The opcode map (R90, R91). -/
def opcodeMap : List (Nat × Instr) :=
  opcodesSystem ++ opcodesBlock ++ opcodesByte ++ opcodesWord ++
  opcodesAesf128 ++ opcodesAesf192 ++ opcodesAesf256 ++ opcodesAest128 ++
  opcodesAest256 ++ opcodesAess128 ++ opcodesAess256 ++ opcodesEax ++ opcodesXts

/-- The command an opcode selects, if it is assigned (R87, R90). -/
def instrOfOpcode (opc : Nat) : Option Instr := (opcodeMap.find? fun row => row.1 == opc).map Prod.snd

/-- `CMD[7:0] = OPC` (R86). -/
def opc (w : Word) : Byte := w.extractLsb' 0 8

/-- `CMD[31:8] = RSVD` (R86). -/
def rsvd (w : Word) : BitVec 24 := w.extractLsb' 8 24

/-- Decoding of a command word (R87): first RSVD, then OPC. -/
def decode (w : Word) : Except Reserved Instr :=
  if rsvd w ≠ 0 then .error .rsvdNotZero
  else
    match instrOfOpcode (opc w).toNat with
    | some i => .ok i
    | none => .error .opcodeUnassigned

/-- The opcode of a command (R90, R91). -/
def opcode : Instr → Nat
  | .nop => 0x00
  | .subbytes => 0x01
  | .shiftrows => 0x02
  | .sbsr => 0x03
  | .isubbytes => 0x04
  | .ishiftrows => 0x05
  | .isrsb => 0x06
  | .mixc => 0x07
  | .imixc => 0x08
  | .ark => 0x09
  | .subb => 0x10
  | .isubb => 0x11
  | .xtime => 0x12
  | .gmul => 0x13
  | .rcon => 0x14
  | .kcore => 0x18
  | .subword => 0x19
  | .kstep128 => 0x1A
  | .kstep192 => 0x1B
  | .kstep256 => 0x1C
  | .ikstep128 => 0x1D
  | .ikstep192 => 0x1E
  | .ikstep256 => 0x1F
  | .aesf128Setkey => 0x40
  | .aesf128Enc => 0x41
  | .aesf128Dec => 0x42
  | .aesf128Clear => 0x43
  | .aesf128Keysize => 0x44
  | .aesf128Blocksize => 0x45
  | .aesf192Setkey => 0x48
  | .aesf192Enc => 0x49
  | .aesf192Dec => 0x4A
  | .aesf192Clear => 0x4B
  | .aesf192Keysize => 0x4C
  | .aesf192Blocksize => 0x4D
  | .aesf256Setkey => 0x50
  | .aesf256Enc => 0x51
  | .aesf256Dec => 0x52
  | .aesf256Clear => 0x53
  | .aesf256Keysize => 0x54
  | .aesf256Blocksize => 0x55
  | .aest128Setkey => 0x58
  | .aest128Enc => 0x59
  | .aest128Dec => 0x5A
  | .aest128Clear => 0x5B
  | .aest128Keysize => 0x5C
  | .aest128Blocksize => 0x5D
  | .aest256Setkey => 0x60
  | .aest256Enc => 0x61
  | .aest256Dec => 0x62
  | .aest256Clear => 0x63
  | .aest256Keysize => 0x64
  | .aest256Blocksize => 0x65
  | .aess128Setkey => 0x68
  | .aess128Enc => 0x69
  | .aess128Dec => 0x6A
  | .aess128Clear => 0x6B
  | .aess128Keysize => 0x6C
  | .aess128Blocksize => 0x6D
  | .aess256Setkey => 0x70
  | .aess256Enc => 0x71
  | .aess256Dec => 0x72
  | .aess256Clear => 0x73
  | .aess256Keysize => 0x74
  | .aess256Blocksize => 0x75
  | .eaxSetkey => 0x80
  | .eaxSetiv => 0x81
  | .eaxAad => 0x82
  | .eaxEnc => 0x83
  | .eaxDec => 0x84
  | .eaxTag => 0x85
  | .eaxChktag => 0x86
  | .eaxClear => 0x87
  | .eaxKeysize => 0x88
  | .eaxIvsize => 0x89
  | .eaxTagsize => 0x8A
  | .xtsSetkey => 0xA0
  | .xtsSettweak => 0xA1
  | .xtsSetsect => 0xA2
  | .xtsGetsect => 0xA3
  | .xtsEncsect => 0xA4
  | .xtsDecsect => 0xA5
  | .xtsClear => 0xA6
  | .xtsKeysize => 0xA7
  | .xtsTweaksize => 0xA8

/-- The command word of a command: `zext_32(OPC)` (R86, R94). -/
def encode (i : Instr) : Word := BitVec.ofNat 32 (opcode i)

/-- The command the decoder reads from the bits `w`, `nbits` of them, numbered as spec/opcode_table.json numbers them;
the bits above `nbits` are zero. A command is one 32-bit word (R86), so a set bit above bit 31 leaves no command. -/
def decodeTableWord (nbits w : Nat) : Option Instr :=
  let bits := w % 2 ^ nbits
  if bits < 2 ^ 32 then (decode (BitVec.ofNat 32 bits)).toOption else none

end Sys2Proof
end

