-- ==== Sys2Proof/Machine/Bytes.lean ====
section
/-! DEFINITION. Byte sequences, words and blocks: conversions and exclusive-or (00_scope.md rules R11 and R15). -/

namespace Sys2Proof.Machine

/-- The four bytes of a word, first byte first (R11). -/
def quadBytes (w : Quad) : List Byte := [w.b0, w.b1, w.b2, w.b3]

/-- The sixteen bytes of a block, first byte first (R11, R106). -/
def blockBytes (b : Block) : List Byte := quadBytes b.c0 ++ quadBytes b.c1 ++ quadBytes b.c2 ++ quadBytes b.c3

/-- A byte sequence read as consecutive words, `w[j] = W[4j..4j+4)` (R11); a rest shorter than a word is dropped
(no caller leaves one). -/
def words : List Byte → List Quad
  | a :: b :: c :: d :: rest => ⟨a, b, c, d⟩ :: words rest
  | _ => []

/-- The bytes of a window, `n[0] || n[1] || …` (R11, R124). -/
def wordsBytes (ws : List Quad) : List Byte := ws.flatMap quadBytes

/-- Word `j` of a sequence of words, or the zero word beyond its end. -/
def wordAt (ws : List Quad) (j : Nat) : Quad := ws.getD j Quad.zero

/-- The block whose columns are the words `j` to `j + 3` of a sequence. -/
def blockAtWord (ws : List Quad) (j : Nat) : Block :=
  ⟨wordAt ws j, wordAt ws (j + 1), wordAt ws (j + 2), wordAt ws (j + 3)⟩

/-- The first sixteen bytes of a sequence as a block; missing bytes are zero. -/
def blockOfBytes (l : List Byte) : Block :=
  let g := fun i => l.getD i (0 : Byte)
  ⟨⟨g 0, g 1, g 2, g 3⟩, ⟨g 4, g 5, g 6, g 7⟩, ⟨g 8, g 9, g 10, g 11⟩, ⟨g 12, g 13, g 14, g 15⟩⟩

/-- The first four bytes of a sequence as a word; missing bytes are zero. -/
def quadOfBytes (l : List Byte) : Quad :=
  let g := fun i => l.getD i (0 : Byte)
  ⟨g 0, g 1, g 2, g 3⟩

/-- `B[i]` of a block (R11). -/
def blockByte (b : Block) (i : Nat) : Byte := (blockBytes b).getD i 0

/-- The block with byte `i` replaced (`MAC.BUF[i] <- v`, R235). -/
def setBlockByte (b : Block) (i : Nat) (v : Byte) : Block := blockOfBytes ((blockBytes b).set i v)

/-- Bytewise exclusive-or of words (R11). -/
def xorQuad (a b : Quad) : Quad := ⟨a.b0 ^^^ b.b0, a.b1 ^^^ b.b1, a.b2 ^^^ b.b2, a.b3 ^^^ b.b3⟩

/-- Bytewise exclusive-or of blocks (R11). -/
def xorBlock (a b : Block) : Block :=
  ⟨xorQuad a.c0 b.c0, xorQuad a.c1 b.c1, xorQuad a.c2 b.c2, xorQuad a.c3 b.c3⟩

/-- The 128-bit integer whose big-endian encoding is the block: `B[0]` is most significant (R232, R236). -/
def blockToBE (b : Block) : BitVec 128 :=
  let q := fun (w : Quad) => w.b0 ++ w.b1 ++ w.b2 ++ w.b3
  q b.c0 ++ q b.c1 ++ q b.c2 ++ q b.c3

/-- Byte `i` of the integer, counted from its least significant byte. -/
def intByte (x : BitVec 128) (i : Nat) : Byte := x.extractLsb' (8 * i) 8

/-- The big-endian encoding of a 128-bit integer (R232, R236). -/
def blockOfBE (x : BitVec 128) : Block :=
  ⟨⟨intByte x 15, intByte x 14, intByte x 13, intByte x 12⟩, ⟨intByte x 11, intByte x 10, intByte x 9, intByte x 8⟩,
   ⟨intByte x 7, intByte x 6, intByte x 5, intByte x 4⟩, ⟨intByte x 3, intByte x 2, intByte x 1, intByte x 0⟩⟩

/-- The 128-bit integer whose little-endian encoding is the block: `B[0]` is least significant (R272). -/
def blockToLE (b : Block) : BitVec 128 :=
  let q := fun (w : Quad) => w.b3 ++ w.b2 ++ w.b1 ++ w.b0
  q b.c3 ++ q b.c2 ++ q b.c1 ++ q b.c0

/-- The little-endian encoding of a 128-bit integer (R272). -/
def blockOfLE (x : BitVec 128) : Block :=
  ⟨⟨intByte x 0, intByte x 1, intByte x 2, intByte x 3⟩, ⟨intByte x 4, intByte x 5, intByte x 6, intByte x 7⟩,
   ⟨intByte x 8, intByte x 9, intByte x 10, intByte x 11⟩, ⟨intByte x 12, intByte x 13, intByte x 14, intByte x 15⟩⟩

end Sys2Proof.Machine
end

