-- ==== Sys2Proof/Config.lean ====
section
/-! DEFINITION. The parameters of the block (00_scope.md rule R9; 92_eei_decisions.md section 9). -/

namespace Sys2Proof

/-- `SECTOR_DEFAULT` (R9, D25). -/
def Config.sectorDefault : Word := 512

/-- `EAX_IVSIZE` (R9, D22). -/
def Config.eaxIvSize : Word := 16

/-- `EAX_TAGSIZE` (R9, D22). -/
def Config.eaxTagSize : Word := 16

/-- `XTS_TWEAKSIZE` (R9). -/
def Config.xtsTweakSize : Word := 16

/-- `BLOCK`, the AES block size in bytes (R9). -/
def Config.blockSize : Word := 16

/-- The OPEN parameters of R9 but `T_CMD`, which R9 leaves unmodelled. The model takes them as an argument: State carries
them, no step changes them, and a statement about every state holds for every value of them (notes/assumptions/3.md). -/
structure Params where
  /-- `DMEM_SIZE`: a positive integer, at most 2^32. -/
  dmemSize : Nat
  /-- `SECTOR_MAX`: a multiple of 16, 512 to 2^32 - 16. -/
  sectorMax : Nat
  /-- `REG_BASE`: a host address, a multiple of 4, where the 64-slot register window appears to the host. -/
  regBase : Nat
  /-- `DMEM_BASE`: the host address where DMEM address 0 appears to the host. -/
  dmemBase : Nat
deriving DecidableEq, Repr

/-- The constraints R9 puts on the parameters. -/
def Params.wf (p : Params) : Bool :=
  0 < p.dmemSize && p.dmemSize ≤ 2 ^ 32 && p.sectorMax % 16 == 0 && 512 ≤ p.sectorMax && p.sectorMax ≤ 2 ^ 32 - 16 &&
    p.regBase % 4 == 0

/-- The platform's `DMEM_SIZE`, less one. No body: R9 leaves the value OPEN, and nothing may rest on it. -/
opaque Config.dmemSizeLessOne : BitVec 32

/-- How many 16-byte steps the platform's `SECTOR_MAX` lies above 512. No body: R9 leaves the value OPEN. The bound
`2^28 - 32` of the type is `(2^32 - 16 - 512) / 16 + 1`. -/
opaque Config.sectorMaxSteps : Fin 268435424

/-- The platform's `REG_BASE`, in words of four bytes. No body: R9 leaves the value OPEN. -/
opaque Config.regBaseWords : Nat

/-- The platform's `DMEM_BASE`. No body: R9 leaves the value OPEN. -/
opaque Config.dmemBase : Nat

/-- The platform's parameters: some value that R9 allows. -/
def Config.platform : Params :=
  { dmemSize := Config.dmemSizeLessOne.toNat + 1, sectorMax := 512 + 16 * Config.sectorMaxSteps.val
    regBase := 4 * Config.regBaseWords, dmemBase := Config.dmemBase }

end Sys2Proof
end

