-- ==== Sys2Proof/Machine/State.lean ====
section
/-! DEFINITION. The state of the block and of its host port (10_state.md; 70_reset_and_hazards.md rules R331, R349),
the reasons a step can stop, and the state after reset. -/

namespace Sys2Proof.Machine

/-- The seven AES variants (R30); code 7 is reserved and selects none. -/
inductive Variant where
  | full128
  | full192
  | full256
  | tiny128
  | tiny256
  | small128
  | small256
deriving DecidableEq, Repr

/-- The phases of the EAX engine, EAX.PH (R43); the values 5 to 7 are never held. -/
inductive Phase where
  /-- 0: no key set. -/
  | noKey
  /-- 1: key set, no nonce yet. -/
  | noIv
  /-- 2: nonce processed; associated data may be added. -/
  | auth
  /-- 3: ciphertext processing has begun. -/
  | cipher
  /-- 4: tag computed. -/
  | done
deriving DecidableEq, Repr

/-- The completion codes a command can report in STATUS.CODE (R306); the reserved codes are never reported. -/
inductive Code where
  /-- 0x00: the command completed. -/
  | ok
  /-- 0x01: LEN is not a length the command accepts. -/
  | errLen
  /-- 0x03: the unit has no key. -/
  | errNoKey
  /-- 0x04: the unit is keyed, but its phase does not allow the command. -/
  | errPhase
  /-- 0x05: EAX.CHKTAG completed and the tag did not match; not an error. -/
  | tagMismatch
  /-- 0x06: an ARG field holds a reserved value. -/
  | errArg
  /-- 0x07: a DMEM range is not inside DMEM. -/
  | errRange
  /-- 0x08: the command word is a reserved encoding. -/
  | errOpc
deriving DecidableEq, Repr

/-- An AES context `AesCtx` (R36). A field that the variant's tier does not use holds zero, and so does the part of a
field beyond the variant's size. -/
structure AesCtx where
  /-- KEYED. -/
  keyed : Bool
  /-- `EK[0..Nr]`, capacity 15 round keys. -/
  ek : Vector Block 15
  /-- `DK[0..Nr]`, capacity 15 round keys. -/
  dk : Vector Block 15
  /-- K0, the first window, capacity 32 bytes, held as words. -/
  k0 : Vector Quad 8
  /-- KF, the final window, capacity 32 bytes, held as words. -/
  kf : Vector Quad 8
deriving DecidableEq, Repr

/-- A cleared AES context: every byte zero, KEYED = 0 (R48). -/
def AesCtx.cleared : AesCtx :=
  { keyed := false
    ek := Vector.replicate 15 Block.zero
    dk := Vector.replicate 15 Block.zero
    k0 := Vector.replicate 8 Quad.zero
    kf := Vector.replicate 8 Quad.zero }

/-- The MAC fields of the EAX context (R40, R41). -/
structure Mac where
  /-- MAC.K1, a CMAC subkey. -/
  k1 : Block
  /-- MAC.K2, a CMAC subkey. -/
  k2 : Block
  /-- MAC.ACC, the chaining value. -/
  acc : Block
  /-- MAC.BUF, the pending block. -/
  buf : Block
  /-- MAC.BLEN, the bytes valid in MAC.BUF, 0 … 16. -/
  blen : Nat
deriving DecidableEq, Repr

/-- The EAX context (R40). -/
structure Eax where
  /-- EAX.V. -/
  v : Variant
  /-- EAX.CIPH. -/
  ciph : AesCtx
  /-- EAX.PH. -/
  ph : Phase
  /-- EAX.CTR. -/
  ctr : Block
  /-- EAX.STREAM. -/
  stream : Block
  /-- EAX.POSN, the bytes of STREAM used, 0 … 16. -/
  posn : Nat
  /-- EAX.TAG. -/
  tag : Block
  /-- EAX.HASH. -/
  hash : Block
  /-- MAC.K1 to MAC.BLEN. -/
  mac : Mac
deriving DecidableEq, Repr

/-- A cleared EAX context (R48): variant code 0, phase NOKEY, every byte and count zero. -/
def Eax.cleared : Eax :=
  { v := .full128
    ciph := AesCtx.cleared
    ph := .noKey
    ctr := Block.zero
    stream := Block.zero
    posn := 0
    tag := Block.zero
    hash := Block.zero
    mac := { k1 := Block.zero, k2 := Block.zero, acc := Block.zero, buf := Block.zero, blen := 0 } }

/-- The words `XTS.TW[0..3]` (R44, R45). -/
structure Tweak where
  w0 : Word
  w1 : Word
  w2 : Word
  w3 : Word
deriving DecidableEq, Repr

/-- The XTS context (R44). -/
structure Xts where
  /-- XTS.V. -/
  v : Variant
  /-- XTS.M: false = two-key mode (0), true = single-key mode (1). -/
  m : Bool
  /-- XTS.KEYED. -/
  keyed : Bool
  /-- XTS.DATA. -/
  data : AesCtx
  /-- XTS.TWK. -/
  twk : AesCtx
  /-- XTS.TW. -/
  tw : Tweak
  /-- XTS.TWEAKED. -/
  tweaked : Bool
  /-- XTS.SECT, the sector size in bytes. -/
  sect : Word
deriving DecidableEq, Repr

/-- A cleared XTS context (R48): every field zero but XTS.SECT, which is kept. -/
def Xts.cleared (sect : Word) : Xts :=
  { v := .full128, m := false, keyed := false, data := AesCtx.cleared, twk := AesCtx.cleared, tw := ⟨0, 0, 0, 0⟩
    tweaked := false, sect := sect }

/-- DMEM (R61): address and byte pairs, addresses strictly rising, no byte equal to what an unlisted address reads as
(notes/assumptions/4.md). -/
abbrev Memory := List Host.Cell

/-- An access the host makes by an address of its own address space, in which the register window appears at `REG_BASE`
and DMEM at `DMEM_BASE` (R9, R24, R64). DESIGN CHOICE (notes/assumptions/16.md): the access says whether it is one to a
register or one to DMEM. -/
inductive BusAccess where
  /-- A register read of `bits` bits. -/
  | readReg (bits addr : Nat)
  /-- A register write of `bits` bits. -/
  | writeReg (bits addr : Nat) (value : Word)
  /-- A read of `len` DMEM bytes. -/
  | readMem (addr len : Nat)
  /-- A write of DMEM bytes. -/
  | writeMem (addr : Nat) (data : List Byte)
deriving DecidableEq, Repr

/-- What the host, or the platform, does at the block's port (R349, R350, R331). -/
inductive HostAction where
  /-- A register read of `bits` bits at a byte offset of the register window. -/
  | readReg (bits : Nat) (offset : BitVec 8)
  /-- A register write of `bits` bits at a byte offset of the register window; a write to CMD executes a command. -/
  | writeReg (bits : Nat) (offset : BitVec 8) (value : Word)
  /-- A read of `len` DMEM bytes from `addr` on. -/
  | readMem (addr len : Nat)
  /-- A write of DMEM bytes from `addr` on. -/
  | writeMem (addr : Nat) (data : List Byte)
  /-- An access by a host address (R64). -/
  | bus (access : BusAccess)
  /-- The platform asserts reset (R331); DMEM then holds `contents`, an unconstrained input (R62, R331), and zero
  where `contents` lists nothing. -/
  | reset (contents : List Host.Cell)
deriving DecidableEq, Repr

/-- What one host read returned (R349). -/
inductive HostRead where
  | reg (offset : BitVec 8) (value : Word)
  | mem (addr : Nat) (data : List Byte)
deriving DecidableEq, Repr

/-- The whole state: the block's registers (R24), its contexts (R35, R40, R44), DMEM (R61), the platform's parameters
(R9), and the run at the host port (R349): the actions still to come and the values the host's reads returned. -/
structure State where
  /-- CMD, the last word the host wrote to it (R25). -/
  cmd : Word
  /-- SRC (R26). -/
  src : Word
  /-- DST (R27). -/
  dst : Word
  /-- LEN (R28). -/
  len : Word
  /-- ARG (R29). -/
  arg : Word
  /-- STATUS.CODE (R31). -/
  code : Code
  /-- STATUS.BUSY (R31). -/
  busy : Bool
  /-- RESULT (R32). -/
  result : Word
  /-- `ctx[0..6]`, by variant code (R35). -/
  ctx : Vector AesCtx 7
  /-- The EAX context with its MAC (R40). -/
  eax : Eax
  /-- The XTS context (R44). -/
  xts : Xts
  /-- DMEM (R61). -/
  dmem : Memory
  /-- `DMEM_SIZE`, `SECTOR_MAX`, `REG_BASE` and `DMEM_BASE` (R9). -/
  params : Params
  /-- The actions of the run that are still to come, the next one first (R302, R349). -/
  actions : List HostAction
  /-- The values the host's reads returned, the first read first (R349). -/
  reads : List HostRead
deriving DecidableEq, Repr

/-- Why a step stops although the spec gives the block a state. No command raises one: a command's errors are values of
STATUS.CODE (R307, R321). -/
inductive Fault where
  /-- The host accesses the block while BUSY = 1, other than by reading STATUS: R339 gives the access no step. Raised by
  the host port alone, in states no run reaches. Safe: the model stops. -/
  | hostAccessWhileBusy
  /-- The host reads or writes a DMEM byte at or above DMEM_SIZE, which does not exist (R61). Raised by the host port
  alone. Safe: the model stops. -/
  | hostDmemRange
  /-- The host accesses a register or DMEM by a host address where the window does not appear: below REG_BASE, at or above
  REG_BASE + 256, or below DMEM_BASE (R24, R64; notes/assumptions/16.md). Raised by the host port alone. Safe: the model
  stops. -/
  | hostAddress
deriving DecidableEq, Repr

/-- Why a step gives no meaning. -/
inductive Refusal where
  /-- The command has no meaning in this model yet. Raised by no arm of this model. Safe: the model stops. -/
  | notModelled (mnemonic : String)
  /-- A host register access that is not 32 bits wide or not at a multiple of 4: R67 has a model refuse it. Raised by
  the host port alone. Safe: the model stops. -/
  | registerAccess
deriving DecidableEq, Repr

/-- The state after reset (R49, R331). DMEM is not reset and lists nothing here (notes/assumptions/4.md); the parameters
are the platform's, left open (3.md); the block waits for the host, of which nothing is known (1.md). -/
def State.reset : State :=
  { cmd := 0, src := 0, dst := 0, len := 0, arg := 0
    code := .ok, busy := false, result := 0
    ctx := Vector.replicate 7 AesCtx.cleared
    eax := Eax.cleared
    xts := Xts.cleared Config.sectorDefault
    dmem := []
    params := Config.platform
    actions := []
    reads := [] }

end Sys2Proof.Machine
end

