-- ==== Sys2Proof/Machine/Ops.lean ====
section
/-! DEFINITION. The named operations on DMEM, on the registers and on the contexts, and the one way a command ends:
by raising a code or by completing (00_scope.md rules R13, R14, R15; 20_memory.md rule R66; 60_exceptions.md rule R307). -/

namespace Sys2Proof.Machine

/-- What a DMEM address that Memory does not list reads as. DESIGN CHOICE, unsafe (notes/assumptions/4.md): R62 leaves
DMEM after reset unspecified. -/
def unlistedByte : Byte := 0x00#8

/-- `DMEM[a]`. -/
def Memory.read : Memory → Nat → Byte
  | [], _ => unlistedByte
  | (k, v) :: m, a => if k = a then v else Memory.read m a

/-- The cell in front of a memory, left out where it holds what an unlisted address reads as. -/
def Memory.cons (a : Nat) (v : Byte) (m : Memory) : Memory := if v = unlistedByte then m else (a, v) :: m

/-- `DMEM[a] <- v`, in the canonical form. -/
def Memory.write : Memory → Nat → Byte → Memory
  | [], a, v => Memory.cons a v []
  | (k, w) :: m, a, v =>
    if a < k then Memory.cons a v ((k, w) :: m)
    else if a = k then Memory.cons a v m
    else (k, w) :: Memory.write m a v

/-- Every listed address is at least `lo`, the addresses rise strictly, and no listed byte is the unlisted one. -/
def Memory.wfFrom : Nat → Memory → Bool
  | _, [] => true
  | lo, (k, v) :: m => lo ≤ k && v != unlistedByte && Memory.wfFrom (k + 1) m

/-- The canonical form. -/
def Memory.wf (m : Memory) : Bool := Memory.wfFrom 0 m

/-- Every listed address lies below `size` (R61). -/
def Memory.below (size : Nat) (m : Memory) : Bool := m.all fun c => c.1 < size

/-- `MemRead(addr, n)` (R13). -/
def memRead (m : Memory) (addr : Nat) : Nat → List Byte
  | 0 => []
  | n + 1 => m.read addr :: memRead m (addr + 1) n

/-- `MemWrite(addr, n, v)` for the `n` bytes of `v`, in increasing order (R13). -/
def memWrite (m : Memory) (addr : Nat) : List Byte → Memory
  | [] => m
  | b :: bs => memWrite (m.write addr b) (addr + 1) bs

/-- `InRange(a, n)` (R66), on unbounded integers: `n = 0 or a + n ≤ DMEM_SIZE`. -/
def inRange (p : Params) (a n : Nat) : Bool := n == 0 || a + n ≤ p.dmemSize

/-- Every range of a command lies in DMEM (R66). -/
def rangesOk (p : Params) (rs : List (Nat × Nat)) : Bool := rs.all fun r => inRange p r.1 r.2

/-- `raise <CODE>` (R14): the command ends, STATUS.CODE records the code, and nothing else changes. BUSY is 0 once a
command has ended (R31). -/
def raise (c : Code) (s : State) : State := { s with code := c, busy := false }

/-- The end of a command that passed every check: it reports OK (R308), and BUSY is 0 (R31). -/
def complete (s : State) : State := { s with code := .ok, busy := false }

/-- `REG.RESULT <- v` (R12, R32). -/
def setResult (v : Word) (s : State) : State := { s with result := v }

/-- `MemWrite` at DST (R27). -/
def writeDst (bytes : List Byte) (s : State) : State := { s with dmem := memWrite s.dmem s.dst.toNat bytes }

/-- `MemRead(SRC, n)` (R26). -/
def readSrc (n : Nat) (s : State) : List Byte := memRead s.dmem s.src.toNat n

/-- `MemRead(DST, n)`, which only ARK makes (R27, R141). -/
def readDst (n : Nat) (s : State) : List Byte := memRead s.dmem s.dst.toNat n

/-- The index of a variant's context: its code (R30, R35). -/
def ctxIndex : Variant → Fin 7
  | .full128 => 0
  | .full192 => 1
  | .full256 => 2
  | .tiny128 => 3
  | .tiny256 => 4
  | .small128 => 5
  | .small256 => 6

/-- `ctx[v]` (R35). -/
def ctxOf (v : Variant) (s : State) : AesCtx := s.ctx[ctxIndex v]

/-- `ctx[v] <- c` (R35). -/
def setCtx (v : Variant) (c : AesCtx) (s : State) : State := { s with ctx := s.ctx.set (ctxIndex v) c }

/-- The state of R331 in which the platform's parameters, the rest of the run and the returned reads are kept and DMEM
holds `contents` (R62: an unconstrained input), cells that do not exist left out. -/
def afterReset (contents : List Host.Cell) (s : State) : State :=
  { State.reset with
    params := s.params
    actions := s.actions
    reads := s.reads
    dmem := contents.foldl (fun m c => if c.1 < s.params.dmemSize then m.write c.1 c.2 else m) [] }

end Sys2Proof.Machine
end

