-- ==== Sys2Proof/Machine/Operands.lean ====
section
/-! DEFINITION. The operand forms (30_encoding.md rules R88 and R89; 10_state.md rules R29 and R30): the fields of ARG,
the variant codes, the round index, and what each format reads, checks and writes. -/

namespace Sys2Proof.Machine

/-- `A = ARG[7:0]` (R29, R89). -/
def argA (s : State) : Byte := s.arg.extractLsb' 0 8

/-- `B = ARG[15:8]` (R29, R89). -/
def argB (s : State) : Byte := s.arg.extractLsb' 8 8

/-- `V = ARG[2:0]` (R29, R89). -/
def argV (s : State) : BitVec 3 := s.arg.extractLsb' 0 3

/-- `M = ARG[8]` (R29, R89); true is single-key mode (1). -/
def argM (s : State) : Bool := s.arg.getLsbD 8

/-- The variant a code selects (R30); code 7 is reserved. -/
def variantOfCode (c : BitVec 3) : Option Variant :=
  match c.toNat with
  | 0 => some .full128
  | 1 => some .full192
  | 2 => some .full256
  | 3 => some .tiny128
  | 4 => some .tiny256
  | 5 => some .small128
  | 6 => some .small256
  | _ => none

/-- The variant ARG.V selects, if its code is not reserved (R93). -/
def argVariant (s : State) : Option Variant := variantOfCode (argV s)

/-- The round index `i = A`, if it is one that is accepted: 1 … 10 (R89, R93, R114). -/
def roundIndex (s : State) : Option Nat :=
  let i := (argA s).toNat
  if 1 ≤ i ∧ i ≤ 10 then some i else none

/-- `min(LEN, 16)`: the tag bytes EAX.TAG and EAX.CHKTAG move (R88). -/
def tagBytes (s : State) : Nat := min s.len.toNat 16

/-- The formats of R88. -/
inductive Format where
  | n
  | q
  | qv
  | qvm
  | byte
  | byte2
  | blk
  | blk2
  /-- WIN-n, with n in bytes. -/
  | win (bytes : Nat)
  | word
  | wordI
  | key
  | keyV
  | keyVM
  | input
  | stream
  | output
  | check
  | lenOnly
  | sector
deriving DecidableEq, Repr

/-- The format of each command (R90, R91). -/
def formatOf : Instr → Format
  | .nop => .n
  | .subbytes => .blk
  | .shiftrows => .blk
  | .sbsr => .blk
  | .isubbytes => .blk
  | .ishiftrows => .blk
  | .isrsb => .blk
  | .mixc => .blk
  | .imixc => .blk
  | .ark => .blk2
  | .subb => .byte
  | .isubb => .byte
  | .xtime => .byte
  | .gmul => .byte2
  | .rcon => .byte
  | .kcore => .wordI
  | .subword => .word
  | .kstep128 => .win 16
  | .kstep192 => .win 24
  | .kstep256 => .win 32
  | .ikstep128 => .win 16
  | .ikstep192 => .win 24
  | .ikstep256 => .win 32
  | .aesf128Setkey => .key
  | .aesf128Enc => .blk
  | .aesf128Dec => .blk
  | .aesf128Clear => .n
  | .aesf128Keysize => .q
  | .aesf128Blocksize => .q
  | .aesf192Setkey => .key
  | .aesf192Enc => .blk
  | .aesf192Dec => .blk
  | .aesf192Clear => .n
  | .aesf192Keysize => .q
  | .aesf192Blocksize => .q
  | .aesf256Setkey => .key
  | .aesf256Enc => .blk
  | .aesf256Dec => .blk
  | .aesf256Clear => .n
  | .aesf256Keysize => .q
  | .aesf256Blocksize => .q
  | .aest128Setkey => .key
  | .aest128Enc => .blk
  | .aest128Dec => .blk
  | .aest128Clear => .n
  | .aest128Keysize => .q
  | .aest128Blocksize => .q
  | .aest256Setkey => .key
  | .aest256Enc => .blk
  | .aest256Dec => .blk
  | .aest256Clear => .n
  | .aest256Keysize => .q
  | .aest256Blocksize => .q
  | .aess128Setkey => .key
  | .aess128Enc => .blk
  | .aess128Dec => .blk
  | .aess128Clear => .n
  | .aess128Keysize => .q
  | .aess128Blocksize => .q
  | .aess256Setkey => .key
  | .aess256Enc => .blk
  | .aess256Dec => .blk
  | .aess256Clear => .n
  | .aess256Keysize => .q
  | .aess256Blocksize => .q
  | .eaxSetkey => .keyV
  | .eaxSetiv => .input
  | .eaxAad => .input
  | .eaxEnc => .stream
  | .eaxDec => .stream
  | .eaxTag => .output
  | .eaxChktag => .check
  | .eaxClear => .n
  | .eaxKeysize => .qv
  | .eaxIvsize => .q
  | .eaxTagsize => .q
  | .xtsSetkey => .keyVM
  | .xtsSettweak => .input
  | .xtsSetsect => .lenOnly
  | .xtsGetsect => .q
  | .xtsEncsect => .sector
  | .xtsDecsect => .sector
  | .xtsClear => .n
  | .xtsKeysize => .qvm
  | .xtsTweaksize => .q

/-- The DMEM ranges a format checks, as address and length (R88, column 3). -/
def formatRanges (f : Format) (s : State) : List (Nat × Nat) :=
  let src := s.src.toNat
  let dst := s.dst.toNat
  let len := s.len.toNat
  match f with
  | .n | .q | .qv | .qvm | .byte | .byte2 | .lenOnly => []
  | .blk | .blk2 => [(src, 16), (dst, 16)]
  | .win bytes => [(src, bytes), (dst, bytes)]
  | .word | .wordI => [(src, 4), (dst, 4)]
  | .key | .keyV | .keyVM | .input => [(src, len)]
  | .stream => [(src, len), (dst, len)]
  | .output => [(dst, tagBytes s)]
  | .check => [(src, tagBytes s)]
  | .sector => [(src, s.xts.sect.toNat), (dst, s.xts.sect.toNat)]

/-- How many bytes from DST on a format writes (R88, column 4). -/
def formatWrites (f : Format) (s : State) : Nat :=
  match f with
  | .n | .q | .qv | .qvm | .byte | .byte2 | .lenOnly | .key | .keyV | .keyVM | .input | .check => 0
  | .blk | .blk2 => 16
  | .win bytes => bytes
  | .word | .wordI => 4
  | .stream => s.len.toNat
  | .output => tagBytes s
  | .sector => s.xts.sect.toNat

/-- Every DMEM range of a command of this format is in DMEM (R66, R88). -/
def operandsInRange (f : Format) (s : State) : Bool := rangesOk s.params (formatRanges f s)

end Sys2Proof.Machine
end

