-- ==== Sys2Proof/Machine/Round.lean ====
section
/-! DEFINITION. The round transformations on one block (40_aes_primitives.md rules R115 to R121). -/

namespace Sys2Proof.Machine

/-- A byte function applied to each byte of a word. -/
def mapQuad (f : Byte → Byte) (w : Quad) : Quad := ⟨f w.b0, f w.b1, f w.b2, f w.b3⟩

/-- A word function applied to each column of a block. -/
def mapColumns (f : Quad → Quad) (b : Block) : Block := ⟨f b.c0, f b.c1, f b.c2, f b.c3⟩

/-- SubBytes (R115). -/
def subBytes (b : Block) : Block := mapColumns (mapQuad sbox) b

/-- InvSubBytes (R117). -/
def invSubBytes (b : Block) : Block := mapColumns (mapQuad sboxInv) b

/-- ShiftRows (R116): row `r` of the state moves left by `r`, `out[r + 4c] = B[r + 4·((c + r) mod 4)]`. -/
def shiftRows (b : Block) : Block :=
  ⟨⟨b.c0.b0, b.c1.b1, b.c2.b2, b.c3.b3⟩, ⟨b.c1.b0, b.c2.b1, b.c3.b2, b.c0.b3⟩,
   ⟨b.c2.b0, b.c3.b1, b.c0.b2, b.c1.b3⟩, ⟨b.c3.b0, b.c0.b1, b.c1.b2, b.c2.b3⟩⟩

/-- InvShiftRows (R118): row `r` moves right by `r`. -/
def invShiftRows (b : Block) : Block :=
  ⟨⟨b.c0.b0, b.c3.b1, b.c2.b2, b.c1.b3⟩, ⟨b.c1.b0, b.c0.b1, b.c3.b2, b.c2.b3⟩,
   ⟨b.c2.b0, b.c1.b1, b.c0.b2, b.c3.b3⟩, ⟨b.c3.b0, b.c2.b1, b.c1.b2, b.c0.b3⟩⟩

/-- The circulant matrix with first row `m0 m1 m2 m3` times the column `a` (the shape of R119 and R120). -/
def circulant (m0 m1 m2 m3 : Byte) (a : Quad) : Quad :=
  ⟨gmul m0 a.b0 ^^^ gmul m1 a.b1 ^^^ gmul m2 a.b2 ^^^ gmul m3 a.b3,
   gmul m3 a.b0 ^^^ gmul m0 a.b1 ^^^ gmul m1 a.b2 ^^^ gmul m2 a.b3,
   gmul m2 a.b0 ^^^ gmul m3 a.b1 ^^^ gmul m0 a.b2 ^^^ gmul m1 a.b3,
   gmul m1 a.b0 ^^^ gmul m2 a.b1 ^^^ gmul m3 a.b2 ^^^ gmul m0 a.b3⟩

/-- MixColumns (R119). -/
def mixColumns (b : Block) : Block := mapColumns (circulant 0x02 0x03 0x01 0x01) b

/-- InvMixColumns (R120). -/
def invMixColumns (b : Block) : Block := mapColumns (circulant 0x0e 0x0b 0x0d 0x09) b

/-- AddRoundKey (R121). -/
def addRoundKey (b k : Block) : Block := xorBlock b k

end Sys2Proof.Machine
end

