-- ==== Sys2Proof/Machine/KeySchedule.lean ====
section
/-! DEFINITION. The key-schedule functions on windows of 4, 6 or 8 words (40_aes_primitives.md rules R122 to R128;
90_conflicts.md C1: the recurrence state is the window, not the 16-byte round key). -/

namespace Sys2Proof.Machine

/-- RotWord (R122). -/
def rotWord (w : Quad) : Quad := ⟨w.b1, w.b2, w.b3, w.b0⟩

/-- SubWord (R122). -/
def subWord (w : Quad) : Quad := mapQuad sbox w

/-- The key-schedule core `KeyCore(w, i)` (R123). -/
def keyCore (w : Quad) (i : Nat) : Quad := xorQuad (subWord (rotWord w)) ⟨rcon i, 0, 0, 0⟩

/-- What word `j` of a window takes in from word `j - 1` of the new window: that word, but for `Nk = 8` and `j = 4`
its SubWord (R124, R125). -/
def carryIn (nk j : Nat) (prev : Quad) : Quad := if nk = 8 ∧ j = 4 then subWord prev else prev

/-- The words `n[j] = w[j] xor carryIn n[j-1]` for the words from `j` on (R124). -/
def expandTail (nk : Nat) : Nat → Quad → List Quad → List Quad
  | _, _, [] => []
  | j, prev, w :: ws =>
    let n := xorQuad w (carryIn nk j prev)
    n :: expandTail nk (j + 1) n ws

/-- The expansion step `KStep(W, i)` (R124), for a window of `Nk` = its length words. -/
def kStep (W : List Quad) (i : Nat) : List Quad :=
  match W with
  | [] => []
  | w0 :: ws =>
    let n0 := xorQuad w0 (keyCore (wordAt W (W.length - 1)) i)
    n0 :: expandTail W.length 1 n0 ws

/-- The words `w[j] = n[j] xor carryIn n[j-1]` for the words from `j` on (R125). -/
def reduceTail (nk : Nat) : Nat → Quad → List Quad → List Quad
  | _, _, [] => []
  | j, prev, n :: ns => xorQuad n (carryIn nk j prev) :: reduceTail nk (j + 1) n ns

/-- The reverse step `IKStep(N, i)` (R125). -/
def ikStep (N : List Quad) (i : Nat) : List Quad :=
  match N with
  | [] => []
  | n0 :: ns =>
    let ws := reduceTail N.length 1 n0 ns
    xorQuad n0 (keyCore (wordAt (n0 :: ws) (N.length - 1)) i) :: ws

/-- The window sequence `Wnd(K, j)` (R127). -/
def wnd (K : List Quad) : Nat → List Quad
  | 0 => K
  | j + 1 => kStep (wnd K j) (j + 1)

/-- The number of window steps a key of `nk` words needs, `J(Nk)` (R127). -/
def stepsOf (nk : Nat) : Nat := if nk = 4 then 10 else if nk = 6 then 8 else 7

/-- The windows `Wnd(K, i-1) || Wnd(K, i) || …`, `n` of them after the first, from the window `W` on. -/
def expandFrom : Nat → Nat → List Quad → List Quad
  | 0, _, W => W
  | n + 1, i, W => W ++ expandFrom n (i + 1) (kStep W i)

/-- The key expansion `E(K)` (R128), as a sequence of words. -/
def expansion (K : List Quad) : List Quad := expandFrom (stepsOf K.length) 1 K

/-- The round key `rk[r] = E(K)[16r .. 16r+16)` (R128). -/
def roundKey (K : List Quad) (r : Nat) : Block := blockAtWord (expansion K) (4 * r)

/-- The round keys `rk[0 .. nr]` (R128). -/
def roundKeys (K : List Quad) (nr : Nat) : List Block := (List.range (nr + 1)).map (roundKey K)

end Sys2Proof.Machine
end

