-- ==== Sys2Proof/Machine/Cipher.lean ====
section
/-! DEFINITION. The AES cipher functions (40_aes_primitives.md rules R129 to R131). -/

namespace Sys2Proof.Machine

/-- Round key `r` of a schedule. -/
def keyAt (rk : List Block) (r : Nat) : Block := rk.getD r Block.zero

/-- The rounds `r`, `r + 1`, … of R129 that mix columns; `n` of them. -/
def cipherRounds (rk : List Block) : Nat → Nat → Block → Block
  | 0, _, s => s
  | n + 1, r, s => cipherRounds rk n (r + 1) (xorBlock (mixColumns (shiftRows (subBytes s))) (keyAt rk r))

/-- `Cipher(rk, Nr, P)` (R129). -/
def cipher (rk : List Block) (nr : Nat) (P : Block) : Block :=
  let s := cipherRounds rk (nr - 1) 1 (xorBlock P (keyAt rk 0))
  xorBlock (shiftRows (subBytes s)) (keyAt rk nr)

/-- The rounds `n`, `n - 1`, … 1 of R130. -/
def invCipherRounds (rk : List Block) : Nat → Block → Block
  | 0, s => s
  | n + 1, s => invCipherRounds rk n (invMixColumns (xorBlock (invSubBytes (invShiftRows s)) (keyAt rk (n + 1))))

/-- `InvCipher(rk, Nr, C)` (R130). -/
def invCipher (rk : List Block) (nr : Nat) (C : Block) : Block :=
  let s := invCipherRounds rk (nr - 1) (xorBlock C (keyAt rk nr))
  xorBlock (invSubBytes (invShiftRows s)) (keyAt rk 0)

/-- The rounds `j`, `j + 1`, … of R131 that mix columns; `n` of them. -/
def eqInvRounds (dk : List Block) : Nat → Nat → Block → Block
  | 0, _, s => s
  | n + 1, j, s => eqInvRounds dk n (j + 1) (xorBlock (invMixColumns (invSubBytes (invShiftRows s))) (keyAt dk j))

/-- `EqInvCipher(dk, Nr, C)` (R131). -/
def eqInvCipher (dk : List Block) (nr : Nat) (C : Block) : Block :=
  let s := eqInvRounds dk (nr - 1) 1 (xorBlock C (keyAt dk 0))
  xorBlock (invSubBytes (invShiftRows s)) (keyAt dk nr)

/-- The decryption schedule of R37: `DK[0] = rk[Nr]`, `DK[j] = InvMixColumns(rk[Nr-j])`, `DK[Nr] = rk[0]`. -/
def decryptionKey (rk : List Block) (nr j : Nat) : Block :=
  if j = 0 ∨ j = nr then keyAt rk (nr - j) else invMixColumns (keyAt rk (nr - j))

/-- The decryption schedule `DK[0 .. nr]` (R37). -/
def decryptionKeys (rk : List Block) (nr : Nat) : List Block := (List.range (nr + 1)).map (decryptionKey rk nr)

end Sys2Proof.Machine
end

