-- ==== Sys2Proof/Machine/Variants.lean ====
section
/-! DEFINITION. The AES variants as functions of an `AesCtx` (41_aes_variants.md rules R161 to R169). The EAX and XTS
engines use the same functions. -/

namespace Sys2Proof.Machine

/-- The memory tiers (R30). -/
inductive Tier where
  | full
  | tiny
  | small
deriving DecidableEq, Repr

/-- `tier(v)` (R30). -/
def tier : Variant → Tier
  | .full128 | .full192 | .full256 => .full
  | .tiny128 | .tiny256 => .tiny
  | .small128 | .small256 => .small

/-- `KB(v)`, the key length in bytes (R30, R161). -/
def keyBytes : Variant → Nat
  | .full128 | .tiny128 | .small128 => 16
  | .full192 => 24
  | .full256 | .tiny256 | .small256 => 32

/-- `Nk(v) = KB(v)/4` (R161). -/
def keyWords (v : Variant) : Nat := keyBytes v / 4

/-- `Nr(v) = Nk(v) + 6` (R161). -/
def rounds (v : Variant) : Nat := keyWords v + 6

/-- `J(v) = J(Nk(v))` (R161). -/
def windowSteps (v : Variant) : Nat := stepsOf (keyWords v)

/-- A list laid into a field of capacity `n`, zero (`z`) beyond the list's end (R36). -/
def padTo {α : Type} (n : Nat) (z : α) (l : List α) : Vector α n := Vector.ofFn fun i => l.getD i.val z

/-- `AesSetup(v, K)` (R162), from a cleared context. -/
def aesSetup (v : Variant) (K : List Quad) : AesCtx :=
  match tier v with
  | .full =>
    let rk := roundKeys K (rounds v)
    { AesCtx.cleared with
      keyed := true, ek := padTo 15 Block.zero rk, dk := padTo 15 Block.zero (decryptionKeys rk (rounds v)) }
  | .tiny => { AesCtx.cleared with keyed := true, k0 := padTo 8 Quad.zero K }
  | .small =>
    { AesCtx.cleared with
      keyed := true, k0 := padTo 8 Quad.zero K, kf := padTo 8 Quad.zero (wnd K (windowSteps v)) }

/-- The first window a context holds (K0, R36), as the variant's `Nk` words. -/
def firstWindow (c : AesCtx) (v : Variant) : List Quad := c.k0.toList.take (keyWords v)

/-- The final window a context holds (KF, R36), as the variant's `Nk` words. -/
def finalWindow (c : AesCtx) (v : Variant) : List Quad := c.kf.toList.take (keyWords v)

/-- FullEnc (R163). -/
def fullEnc (c : AesCtx) (v : Variant) (P : Block) : Block := cipher c.ek.toList (rounds v) P

/-- FullDec (R164). -/
def fullDec (c : AesCtx) (v : Variant) (C : Block) : Block := eqInvCipher c.dk.toList (rounds v) C

/-- The window after the key of round `r` has been taken, going forward (R165): for `Nk = 4` the window steps at every
round, for `Nk = 8` at the even ones. -/
def forwardWindow (nk r : Nat) (W : List Quad) : List Quad :=
  if nk = 4 then kStep W r else if r % 2 = 1 then W else kStep W (r / 2)

/-- The round key `rk[r]` in the window that holds it (R165, R166): for `Nk = 8` an odd `r` is in the upper half. -/
def windowKey (nk r : Nat) (W : List Quad) : Block :=
  if nk = 4 then blockAtWord W 0 else if r % 2 = 1 then blockAtWord W 4 else blockAtWord W 0

/-- The rounds `r`, `r + 1`, … of R165; `n` of them, the last without MixColumns. -/
def tinyRounds (nk nr : Nat) : Nat → Nat → List Quad → Block → Block
  | 0, _, _, s => s
  | n + 1, r, W, s =>
    let W' := forwardWindow nk r W
    let s' := shiftRows (subBytes s)
    tinyRounds nk nr n (r + 1) W' (xorBlock (if r < nr then mixColumns s' else s') (windowKey nk r W'))

/-- Encryption from the first window (TinyEnc, R165). -/
def encFromWindow (W : List Quad) (v : Variant) (P : Block) : Block :=
  tinyRounds (keyWords v) (rounds v) (rounds v) 1 W (xorBlock P (blockAtWord W 0))

/-- The window that holds `rk[r]`, going backward from the window of round `r + 1` (R166). -/
def backwardWindow (nk r : Nat) (W : List Quad) : List Quad :=
  if nk = 4 then ikStep W (r + 1) else if r % 2 = 1 then ikStep W ((r + 1) / 2) else W

/-- The rounds `n - 1`, `n - 2`, … 0 of R166. -/
def revRounds (nk : Nat) : Nat → List Quad → Block → Block
  | 0, _, s => s
  | r + 1, W, s =>
    let W' := backwardWindow nk r W
    let s' := xorBlock (invSubBytes (invShiftRows s)) (windowKey nk r W')
    revRounds nk r W' (if 0 < r then invMixColumns s' else s')

/-- `RevDec(Wf, v, C)` (R166). -/
def revDec (Wf : List Quad) (v : Variant) (C : Block) : Block :=
  revRounds (keyWords v) (rounds v) Wf (xorBlock C (blockAtWord Wf 0))

/-- TinyEnc (R165). -/
def tinyEnc (c : AesCtx) (v : Variant) (P : Block) : Block := encFromWindow (firstWindow c v) v P

/-- TinyDec (R167): the recurrence is replayed forward, then the rounds run in reverse. -/
def tinyDec (c : AesCtx) (v : Variant) (C : Block) : Block := revDec (wnd (firstWindow c v) (windowSteps v)) v C

/-- SmallEnc (R168). -/
def smallEnc (c : AesCtx) (v : Variant) (P : Block) : Block := encFromWindow (firstWindow c v) v P

/-- SmallDec (R168). -/
def smallDec (c : AesCtx) (v : Variant) (C : Block) : Block := revDec (finalWindow c v) v C

/-- `AesEnc(ctx, v, P)` (R169). Every caller has checked `ctx.KEYED = 1`. -/
def aesEnc (c : AesCtx) (v : Variant) (P : Block) : Block :=
  match tier v with
  | .full => fullEnc c v P
  | .tiny => tinyEnc c v P
  | .small => smallEnc c v P

/-- `AesDec(ctx, v, C)` (R169). Every caller has checked `ctx.KEYED = 1`. -/
def aesDec (c : AesCtx) (v : Variant) (C : Block) : Block :=
  match tier v with
  | .full => fullDec c v C
  | .tiny => tinyDec c v C
  | .small => smallDec c v C

end Sys2Proof.Machine
end

