-- ==== Sys2Proof/Machine/AesCommands.lean ====
section
/-! DEFINITION. The meanings of the 42 AES variant commands (41_aes_variants.md rules R172 to R213). -/

namespace Sys2Proof.Machine

/-- AES<v>.SETKEY (R172): LEN is checked, then the key's range; `ctx[v] <- AesSetup(v, K)`. -/
def setKeyCommand (v : Variant) (s : State) : Host.Outcome State Fault Refusal :=
  .next <|
    if s.len.toNat = keyBytes v then
      if operandsInRange .key s then complete (setCtx v (aesSetup v (words (readSrc (keyBytes v) s))) s)
      else raise .errRange s
    else raise .errLen s

/-- AES<v>.ENC and AES<v>.DEC (R173, R174): KEYED is checked, then the ranges; the block at SRC, transformed under
`ctx[v]`, goes to DST. -/
def cipherCommand (f : AesCtx → Variant → Block → Block) (v : Variant) (s : State) : Host.Outcome State Fault Refusal :=
  .next <|
    if (ctxOf v s).keyed then
      if operandsInRange .blk s then
        complete (writeDst (blockBytes (f (ctxOf v s) v (blockOfBytes (readSrc 16 s)))) s)
      else raise .errRange s
    else raise .errNoKey s

/-- AES<v>.CLEAR (R175): `ctx[v]` is cleared. -/
def clearCommand (v : Variant) (s : State) : Host.Outcome State Fault Refusal :=
  .next (complete (setCtx v AesCtx.cleared s))

/-- AES<v>.KEYSIZE (R176): RESULT is `KB(v)`. -/
def keySizeCommand (v : Variant) (s : State) : Host.Outcome State Fault Refusal :=
  .next (complete (setResult (BitVec.ofNat 32 (keyBytes v)) s))

/-- AES<v>.BLOCKSIZE (R177): RESULT is 16. -/
def blockSizeCommand (s : State) : Host.Outcome State Fault Refusal :=
  .next (complete (setResult Config.blockSize s))

/-- AESF128.SETKEY (R172): sets the key of `ctx[v]`. -/
def execAesf128Setkey (s : State) : Host.Outcome State Fault Refusal := setKeyCommand .full128 s

/-- AESF128.ENC (R173): encrypts one block. -/
def execAesf128Enc (s : State) : Host.Outcome State Fault Refusal := cipherCommand aesEnc .full128 s

/-- AESF128.DEC (R174): decrypts one block. -/
def execAesf128Dec (s : State) : Host.Outcome State Fault Refusal := cipherCommand aesDec .full128 s

/-- AESF128.CLEAR (R175): erases `ctx[v]`. -/
def execAesf128Clear (s : State) : Host.Outcome State Fault Refusal := clearCommand .full128 s

/-- AESF128.KEYSIZE (R176): reports the key length. -/
def execAesf128Keysize (s : State) : Host.Outcome State Fault Refusal := keySizeCommand .full128 s

/-- AESF128.BLOCKSIZE (R177): reports the block length. -/
def execAesf128Blocksize (s : State) : Host.Outcome State Fault Refusal := blockSizeCommand s

/-- AESF192.SETKEY (R178): sets the key of `ctx[v]`. -/
def execAesf192Setkey (s : State) : Host.Outcome State Fault Refusal := setKeyCommand .full192 s

/-- AESF192.ENC (R179): encrypts one block. -/
def execAesf192Enc (s : State) : Host.Outcome State Fault Refusal := cipherCommand aesEnc .full192 s

/-- AESF192.DEC (R180): decrypts one block. -/
def execAesf192Dec (s : State) : Host.Outcome State Fault Refusal := cipherCommand aesDec .full192 s

/-- AESF192.CLEAR (R181): erases `ctx[v]`. -/
def execAesf192Clear (s : State) : Host.Outcome State Fault Refusal := clearCommand .full192 s

/-- AESF192.KEYSIZE (R182): reports the key length. -/
def execAesf192Keysize (s : State) : Host.Outcome State Fault Refusal := keySizeCommand .full192 s

/-- AESF192.BLOCKSIZE (R183): reports the block length. -/
def execAesf192Blocksize (s : State) : Host.Outcome State Fault Refusal := blockSizeCommand s

/-- AESF256.SETKEY (R184): sets the key of `ctx[v]`. -/
def execAesf256Setkey (s : State) : Host.Outcome State Fault Refusal := setKeyCommand .full256 s

/-- AESF256.ENC (R185): encrypts one block. -/
def execAesf256Enc (s : State) : Host.Outcome State Fault Refusal := cipherCommand aesEnc .full256 s

/-- AESF256.DEC (R186): decrypts one block. -/
def execAesf256Dec (s : State) : Host.Outcome State Fault Refusal := cipherCommand aesDec .full256 s

/-- AESF256.CLEAR (R187): erases `ctx[v]`. -/
def execAesf256Clear (s : State) : Host.Outcome State Fault Refusal := clearCommand .full256 s

/-- AESF256.KEYSIZE (R188): reports the key length. -/
def execAesf256Keysize (s : State) : Host.Outcome State Fault Refusal := keySizeCommand .full256 s

/-- AESF256.BLOCKSIZE (R189): reports the block length. -/
def execAesf256Blocksize (s : State) : Host.Outcome State Fault Refusal := blockSizeCommand s

/-- AEST128.SETKEY (R190): sets the key of `ctx[v]`. -/
def execAest128Setkey (s : State) : Host.Outcome State Fault Refusal := setKeyCommand .tiny128 s

/-- AEST128.ENC (R191): encrypts one block. -/
def execAest128Enc (s : State) : Host.Outcome State Fault Refusal := cipherCommand aesEnc .tiny128 s

/-- AEST128.DEC (R192): decrypts one block. -/
def execAest128Dec (s : State) : Host.Outcome State Fault Refusal := cipherCommand aesDec .tiny128 s

/-- AEST128.CLEAR (R193): erases `ctx[v]`. -/
def execAest128Clear (s : State) : Host.Outcome State Fault Refusal := clearCommand .tiny128 s

/-- AEST128.KEYSIZE (R194): reports the key length. -/
def execAest128Keysize (s : State) : Host.Outcome State Fault Refusal := keySizeCommand .tiny128 s

/-- AEST128.BLOCKSIZE (R195): reports the block length. -/
def execAest128Blocksize (s : State) : Host.Outcome State Fault Refusal := blockSizeCommand s

/-- AEST256.SETKEY (R196): sets the key of `ctx[v]`. -/
def execAest256Setkey (s : State) : Host.Outcome State Fault Refusal := setKeyCommand .tiny256 s

/-- AEST256.ENC (R197): encrypts one block. -/
def execAest256Enc (s : State) : Host.Outcome State Fault Refusal := cipherCommand aesEnc .tiny256 s

/-- AEST256.DEC (R198): decrypts one block. -/
def execAest256Dec (s : State) : Host.Outcome State Fault Refusal := cipherCommand aesDec .tiny256 s

/-- AEST256.CLEAR (R199): erases `ctx[v]`. -/
def execAest256Clear (s : State) : Host.Outcome State Fault Refusal := clearCommand .tiny256 s

/-- AEST256.KEYSIZE (R200): reports the key length. -/
def execAest256Keysize (s : State) : Host.Outcome State Fault Refusal := keySizeCommand .tiny256 s

/-- AEST256.BLOCKSIZE (R201): reports the block length. -/
def execAest256Blocksize (s : State) : Host.Outcome State Fault Refusal := blockSizeCommand s

/-- AESS128.SETKEY (R202): sets the key of `ctx[v]`. -/
def execAess128Setkey (s : State) : Host.Outcome State Fault Refusal := setKeyCommand .small128 s

/-- AESS128.ENC (R203): encrypts one block. -/
def execAess128Enc (s : State) : Host.Outcome State Fault Refusal := cipherCommand aesEnc .small128 s

/-- AESS128.DEC (R204): decrypts one block. -/
def execAess128Dec (s : State) : Host.Outcome State Fault Refusal := cipherCommand aesDec .small128 s

/-- AESS128.CLEAR (R205): erases `ctx[v]`. -/
def execAess128Clear (s : State) : Host.Outcome State Fault Refusal := clearCommand .small128 s

/-- AESS128.KEYSIZE (R206): reports the key length. -/
def execAess128Keysize (s : State) : Host.Outcome State Fault Refusal := keySizeCommand .small128 s

/-- AESS128.BLOCKSIZE (R207): reports the block length. -/
def execAess128Blocksize (s : State) : Host.Outcome State Fault Refusal := blockSizeCommand s

/-- AESS256.SETKEY (R208): sets the key of `ctx[v]`. -/
def execAess256Setkey (s : State) : Host.Outcome State Fault Refusal := setKeyCommand .small256 s

/-- AESS256.ENC (R209): encrypts one block. -/
def execAess256Enc (s : State) : Host.Outcome State Fault Refusal := cipherCommand aesEnc .small256 s

/-- AESS256.DEC (R210): decrypts one block. -/
def execAess256Dec (s : State) : Host.Outcome State Fault Refusal := cipherCommand aesDec .small256 s

/-- AESS256.CLEAR (R211): erases `ctx[v]`. -/
def execAess256Clear (s : State) : Host.Outcome State Fault Refusal := clearCommand .small256 s

/-- AESS256.KEYSIZE (R212): reports the key length. -/
def execAess256Keysize (s : State) : Host.Outcome State Fault Refusal := keySizeCommand .small256 s

/-- AESS256.BLOCKSIZE (R213): reports the block length. -/
def execAess256Blocksize (s : State) : Host.Outcome State Fault Refusal := blockSizeCommand s

end Sys2Proof.Machine
end

