-- ==== Sys2Proof/Machine/Eax.lean ====
section
/-! DEFINITION. The internal procedures of the EAX engine (42_eax.md rules R232 to R239, R243, R246), as functions of
the EAX context. -/

namespace Sys2Proof.Machine

/-- `dbl_be(X)` (R232): doubling in GF(2^128), big-endian. -/
def dblBe (X : Block) : Block :=
  let x := blockToBE X
  blockOfBE ((x <<< 1) ^^^ (if x.getLsbD 127 then 0x87#128 else 0#128))

/-- `E(X) = AesEnc(EAX.CIPH, EAX.V, X)` (R239). -/
def eaxCipher (e : Eax) (X : Block) : Block := aesEnc e.ciph e.v X

/-- The 16-byte block `[t]_16`: fifteen zero bytes, then `t` (R11, R234). -/
def tagBlock (t : Byte) : Block := setBlockByte Block.zero 15 t

/-- `MacInit(t)` (R234). -/
def macInit (t : Byte) (e : Eax) : Eax := { e with mac := { e.mac with acc := Block.zero, buf := tagBlock t, blen := 16 } }

/-- The pending block of the MAC made room in: when it is full it goes through the cipher (R235). -/
def macFlush (e : Eax) : Eax :=
  if e.mac.blen = 16 then
    { e with mac := { e.mac with acc := eaxCipher e (xorBlock e.mac.acc e.mac.buf), buf := Block.zero, blen := 0 } }
  else e

/-- `MacAbsorb(b)` (R235). -/
def macAbsorb (e : Eax) (b : Byte) : Eax :=
  let e := macFlush e
  { e with mac := { e.mac with buf := setBlockByte e.mac.buf e.mac.blen b, blen := e.mac.blen + 1 } }

/-- `for i: MacAbsorb(M[i])` (R238). -/
def macAbsorbAll (e : Eax) (M : List Byte) : Eax := M.foldl macAbsorb e

/-- The block `MacFinal` encrypts under the chaining value (R237): a complete last block takes K1; a partial one is
padded with 0x80 and zeros and takes K2. -/
def macLastBlock (m : Mac) : Block :=
  if m.blen = 16 then xorBlock m.buf m.k1
  else xorBlock (blockOfBytes ((blockBytes m.buf).take m.blen ++ [0x80#8])) m.k2

/-- The value `MacFinal()` returns (R237). -/
def macValue (e : Eax) : Block := eaxCipher e (xorBlock e.mac.acc (macLastBlock e.mac))

/-- The state `MacFinal()` leaves: the MAC fields but the subkeys are zero (R237). -/
def macClose (e : Eax) : Eax := { e with mac := { e.mac with acc := Block.zero, buf := Block.zero, blen := 0 } }

/-- `CtrInc()` (R236): the whole counter block, big-endian, plus 1 modulo 2^128. -/
def ctrInc (ctr : Block) : Block := blockOfBE (blockToBE ctr + 1)

/-- `KsNext()`, up to the byte it takes: a used-up keystream block is replaced (R239). -/
def ksRefill (e : Eax) : Eax :=
  if e.posn = 16 then { e with stream := eaxCipher e e.ctr, ctr := ctrInc e.ctr, posn := 0 } else e

/-- `KsNext()` (R239): the next keystream byte, and the context after it. -/
def ksNext (e : Eax) : Byte × Eax :=
  let e := ksRefill e
  (blockByte e.stream e.posn, { e with posn := e.posn + 1 })

/-- `CloseAuth()` (R243). -/
def closeAuth (e : Eax) : Eax :=
  if e.ph = .auth then { macInit 2 { macClose e with hash := macValue e } with ph := .cipher } else e

/-- `Finalize()` (R246). -/
def finalize (e : Eax) : Eax :=
  let e := closeAuth e
  if e.ph = .cipher then
    { macClose e with tag := xorBlock (xorBlock e.tag e.hash) (macValue e), ph := .done }
  else e

/-- The context EAX.SETKEY leaves for variant `v` and key `K` (R240, R233). -/
def eaxSetup (v : Variant) (K : List Quad) : Eax :=
  let c := aesSetup v K
  let k1 := dblBe (aesEnc c v Block.zero)
  { Eax.cleared with
    v := v, ciph := c, ph := .noIv
    mac := { k1 := k1, k2 := dblBe k1, acc := Block.zero, buf := Block.zero, blen := 0 } }

/-- The context EAX.SETIV leaves for a nonce (R241). -/
def eaxStart (nonce : List Byte) (e : Eax) : Eax :=
  let e0 := macAbsorbAll (macInit 0 e) nonce
  let N := macValue e0
  { macInit 1 { macClose e0 with ctr := N, tag := N, stream := Block.zero, posn := 16, hash := Block.zero } with
    ph := .auth }

end Sys2Proof.Machine
end

