-- ==== Sys2Proof/Machine/EaxCommands.lean ====
section
/-! DEFINITION. The meanings of the EAX commands (42_eax.md rules R231, R240 to R253). -/

namespace Sys2Proof.Machine

/-- EAX.SETKEY (R240): ARG.V, then LEN, then the key's range; the engine is cleared and keyed. -/
def execEaxSetkey (s : State) : Host.Outcome State Fault Refusal :=
  .next <|
    match argVariant s with
    | none => raise .errArg s
    | some v =>
      if s.len.toNat = keyBytes v then
        if operandsInRange .keyV s then complete { s with eax := eaxSetup v (words (readSrc s.len.toNat s)) }
        else raise .errRange s
      else raise .errLen s

/-- EAX.SETIV (R241): a key is needed, in any phase; the nonce becomes the initial counter. -/
def execEaxSetiv (s : State) : Host.Outcome State Fault Refusal :=
  .next <|
    if s.eax.ph = .noKey then raise .errNoKey s
    else if operandsInRange .input s then complete { s with eax := eaxStart (readSrc s.len.toNat s) s.eax }
    else raise .errRange s

/-- EAX.AAD (R242): phase AUTH only; the bytes enter the associated-data MAC. -/
def execEaxAad (s : State) : Host.Outcome State Fault Refusal :=
  .next <|
    if s.eax.ph = .noKey then raise .errNoKey s
    else if s.eax.ph ≠ .auth then raise .errPhase s
    else if operandsInRange .input s then complete { s with eax := macAbsorbAll s.eax (readSrc s.len.toNat s) }
    else raise .errRange s

/-- One byte of EAX.ENC or EAX.DEC (R244, R245): it is read at offset `i`, takes a keystream byte, is written at offset
`i`, and the ciphertext byte of the two enters the MAC. -/
def streamByte (decrypting : Bool) (i : Nat) (s : State) : State :=
  let x := s.dmem.read (s.src.toNat + i)
  let ke := ksNext s.eax
  let y := x ^^^ ke.1
  { s with
    dmem := s.dmem.write (s.dst.toNat + i) y
    eax := macAbsorb ke.2 (if decrypting then x else y) }

/-- The bytes at offsets `i`, `i + 1`, … of EAX.ENC or EAX.DEC; `n` of them, in increasing offset (R68). -/
def streamBytes (decrypting : Bool) : Nat → Nat → State → State
  | 0, _, s => s
  | n + 1, i, s => streamBytes decrypting n (i + 1) (streamByte decrypting i s)

/-- EAX.ENC and EAX.DEC (R244, R245): phases AUTH and CIPHER; the associated-data MAC is closed, also when LEN = 0. -/
def streamCommand (decrypting : Bool) (s : State) : Host.Outcome State Fault Refusal :=
  .next <|
    if s.eax.ph = .noKey then raise .errNoKey s
    else if s.eax.ph ≠ .auth ∧ s.eax.ph ≠ .cipher then raise .errPhase s
    else if operandsInRange .stream s then
      complete (streamBytes decrypting s.len.toNat 0 { s with eax := closeAuth s.eax })
    else raise .errRange s

/-- EAX.ENC (R244): encrypts LEN bytes. -/
def execEaxEnc (s : State) : Host.Outcome State Fault Refusal := streamCommand false s

/-- EAX.DEC (R245): decrypts LEN bytes; the MAC takes the ciphertext bytes read. -/
def execEaxDec (s : State) : Host.Outcome State Fault Refusal := streamCommand true s

/-- EAX.TAG (R247): finalises, and writes the first `min(LEN, 16)` bytes of the tag. -/
def execEaxTag (s : State) : Host.Outcome State Fault Refusal :=
  .next <|
    if s.eax.ph = .noKey then raise .errNoKey s
    else if s.eax.ph = .noIv then raise .errPhase s
    else if operandsInRange .output s then
      let e := finalize s.eax
      complete (writeDst ((blockBytes e.tag).take (tagBytes s)) { s with eax := e })
    else raise .errRange s

/-- `d`, the or of `X[i] xor T[i]` over every byte compared (R249). -/
def tagDifference (X T : List Byte) : Byte := (List.zipWith (fun x t => x ^^^ t) X T).foldl (fun d e => d ||| e) 0

/-- The comparison of EAX.CHKTAG succeeds (R249): 1 ≤ LEN ≤ 16 and the first LEN bytes are equal. -/
def tagMatches (len : Nat) (X : List Byte) (tag : Block) : Bool :=
  !(len == 0 || 16 < len || tagDifference X (blockBytes tag) != 0)

/-- EAX.CHKTAG (R249): finalises, and compares the tag with the bytes at SRC; a mismatch is a completion, not an
error. -/
def execEaxChktag (s : State) : Host.Outcome State Fault Refusal :=
  .next <|
    if s.eax.ph = .noKey then raise .errNoKey s
    else if s.eax.ph = .noIv then raise .errPhase s
    else if operandsInRange .check s then
      let e := finalize s.eax
      if tagMatches s.len.toNat (readSrc (tagBytes s) s) e.tag then complete (setResult 1 { s with eax := e })
      else { complete (setResult 0 { s with eax := e }) with code := .tagMismatch }
    else raise .errRange s

/-- EAX.CLEAR (R250): the whole engine is cleared. -/
def execEaxClear (s : State) : Host.Outcome State Fault Refusal := .next (complete { s with eax := Eax.cleared })

/-- EAX.KEYSIZE (R251): RESULT is `KB(ARG.V)`. -/
def execEaxKeysize (s : State) : Host.Outcome State Fault Refusal :=
  .next <|
    match argVariant s with
    | none => raise .errArg s
    | some v => complete (setResult (BitVec.ofNat 32 (keyBytes v)) s)

/-- EAX.IVSIZE (R252): RESULT is `EAX_IVSIZE`. -/
def execEaxIvsize (s : State) : Host.Outcome State Fault Refusal := .next (complete (setResult Config.eaxIvSize s))

/-- EAX.TAGSIZE (R253): RESULT is `EAX_TAGSIZE`. -/
def execEaxTagsize (s : State) : Host.Outcome State Fault Refusal := .next (complete (setResult Config.eaxTagSize s))

end Sys2Proof.Machine
end

