-- ==== Sys2Proof/Machine/Primitives.lean ====
section
/-! DEFINITION. The meanings of the primitive commands, opcodes 0x01 to 0x1F (40_aes_primitives.md rules R133 to R155).
None reads or writes a context. -/

namespace Sys2Proof.Machine

/-- A command of format BLK (R133 to R140): the block at SRC, transformed, goes to DST. -/
def blockCommand (f : Block → Block) (s : State) : Host.Outcome State Fault Refusal :=
  .next <|
    if operandsInRange .blk s then complete (writeDst (blockBytes (f (blockOfBytes (readSrc 16 s)))) s)
    else raise .errRange s

/-- A command that reports a byte in RESULT (R142 to R146): `RESULT <- zext_32(b)`. -/
def byteCommand (b : Byte) (s : State) : Host.Outcome State Fault Refusal :=
  .next (complete (setResult (b.setWidth 32) s))

/-- A command of format WIN-n (R149 to R154): ARG.A is checked, then the ranges; the window of `n` bytes at SRC,
stepped, goes to DST. -/
def windowCommand (bytes : Nat) (f : List Quad → Nat → List Quad) (s : State) : Host.Outcome State Fault Refusal :=
  .next <|
    match roundIndex s with
    | none => raise .errArg s
    | some i =>
      if operandsInRange (.win bytes) s then complete (writeDst (wordsBytes (f (words (readSrc bytes s)) i)) s)
      else raise .errRange s

/-- SUBBYTES (R133): SubBytes of one block. -/
def execSubbytes (s : State) : Host.Outcome State Fault Refusal := blockCommand subBytes s

/-- SHIFTROWS (R134): ShiftRows of one block. -/
def execShiftrows (s : State) : Host.Outcome State Fault Refusal := blockCommand shiftRows s

/-- SBSR (R135): SubBytes, then ShiftRows. -/
def execSbsr (s : State) : Host.Outcome State Fault Refusal := blockCommand (fun b => shiftRows (subBytes b)) s

/-- ISUBBYTES (R136): InvSubBytes of one block. -/
def execIsubbytes (s : State) : Host.Outcome State Fault Refusal := blockCommand invSubBytes s

/-- ISHIFTROWS (R137): InvShiftRows of one block. -/
def execIshiftrows (s : State) : Host.Outcome State Fault Refusal := blockCommand invShiftRows s

/-- ISRSB (R138): InvShiftRows, then InvSubBytes. -/
def execIsrsb (s : State) : Host.Outcome State Fault Refusal := blockCommand (fun b => invSubBytes (invShiftRows b)) s

/-- MIXC (R139): MixColumns of one block. -/
def execMixc (s : State) : Host.Outcome State Fault Refusal := blockCommand mixColumns s

/-- IMIXC (R140): InvMixColumns of one block. -/
def execImixc (s : State) : Host.Outcome State Fault Refusal := blockCommand invMixColumns s

/-- ARK (R141): the key block at SRC is added into the state block at DST. -/
def execArk (s : State) : Host.Outcome State Fault Refusal :=
  .next <|
    if operandsInRange .blk2 s then
      complete (writeDst (blockBytes (addRoundKey (blockOfBytes (readDst 16 s)) (blockOfBytes (readSrc 16 s)))) s)
    else raise .errRange s

/-- SUBB (R142): the S-box of ARG.A. -/
def execSubb (s : State) : Host.Outcome State Fault Refusal := byteCommand (sbox (argA s)) s

/-- ISUBB (R143): the inverse S-box of ARG.A. -/
def execIsubb (s : State) : Host.Outcome State Fault Refusal := byteCommand (sboxInv (argA s)) s

/-- XTIME (R144): ARG.A times 0x02. -/
def execXtime (s : State) : Host.Outcome State Fault Refusal := byteCommand (xtime (argA s)) s

/-- GMUL (R145): ARG.A times ARG.B. -/
def execGmul (s : State) : Host.Outcome State Fault Refusal := byteCommand (gmul (argA s) (argB s)) s

/-- RCON (R146): the round constant of index ARG.A, which must be 1 … 10. -/
def execRcon (s : State) : Host.Outcome State Fault Refusal :=
  match roundIndex s with
  | none => .next (raise .errArg s)
  | some i => byteCommand (rcon i) s

/-- KCORE (R147): the key-schedule core of the word at SRC goes to DST; ARG.A is the index. -/
def execKcore (s : State) : Host.Outcome State Fault Refusal :=
  .next <|
    match roundIndex s with
    | none => raise .errArg s
    | some i =>
      if operandsInRange .wordI s then complete (writeDst (quadBytes (keyCore (quadOfBytes (readSrc 4 s)) i)) s)
      else raise .errRange s

/-- SUBWORD (R148): SubWord of the word at SRC goes to DST. -/
def execSubword (s : State) : Host.Outcome State Fault Refusal :=
  .next <|
    if operandsInRange .word s then complete (writeDst (quadBytes (subWord (quadOfBytes (readSrc 4 s)))) s)
    else raise .errRange s

/-- KSTEP128 (R149): the expansion step of a 16-byte window. -/
def execKstep128 (s : State) : Host.Outcome State Fault Refusal := windowCommand 16 kStep s

/-- KSTEP192 (R150): the expansion step of a 24-byte window. -/
def execKstep192 (s : State) : Host.Outcome State Fault Refusal := windowCommand 24 kStep s

/-- KSTEP256 (R151): the expansion step of a 32-byte window. -/
def execKstep256 (s : State) : Host.Outcome State Fault Refusal := windowCommand 32 kStep s

/-- IKSTEP128 (R152): the reverse expansion step of a 16-byte window. -/
def execIkstep128 (s : State) : Host.Outcome State Fault Refusal := windowCommand 16 ikStep s

/-- IKSTEP192 (R153): the reverse expansion step of a 24-byte window. -/
def execIkstep192 (s : State) : Host.Outcome State Fault Refusal := windowCommand 24 ikStep s

/-- IKSTEP256 (R154): the reverse expansion step of a 32-byte window. -/
def execIkstep256 (s : State) : Host.Outcome State Fault Refusal := windowCommand 32 ikStep s

end Sys2Proof.Machine
end

