-- ==== Sys2Proof/Machine/System.lean ====
section
/-! DEFINITION. The system command (44_system.md rule R301). -/

namespace Sys2Proof.Machine

/-- NOP (R301): `STATUS.CODE <- OK`, and nothing else. -/
def execNop (s : State) : Host.Outcome State Fault Refusal := .next (complete s)

end Sys2Proof.Machine
end

