-- ==== Sys2Proof/Machine/Xts.lean ====
section
/-! DEFINITION. The internal functions of the XTS engine (43_xts.md rules R271 to R273; 10_state.md rule R45). -/

namespace Sys2Proof.Machine

/-- A little-endian word of four tweak bytes (R45). -/
def packWord (q : Quad) : Word := q.b3 ++ q.b2 ++ q.b1 ++ q.b0

/-- The bytes of a little-endian tweak word (R45). -/
def unpackWord (w : Word) : Quad :=
  ⟨w.extractLsb' 0 8, w.extractLsb' 8 8, w.extractLsb' 16 8, w.extractLsb' 24 8⟩

/-- `pack(T)` (R45). -/
def pack (T : Block) : Tweak := ⟨packWord T.c0, packWord T.c1, packWord T.c2, packWord T.c3⟩

/-- `unpack(XTS.TW)` (R45). -/
def unpack (t : Tweak) : Block := ⟨unpackWord t.w0, unpackWord t.w1, unpackWord t.w2, unpackWord t.w3⟩

/-- `dbl_le(T)` (R272): doubling in GF(2^128), little-endian. -/
def dblLe (T : Block) : Block :=
  let t := blockToLE T
  blockOfLE ((t <<< 1) ^^^ (if t.getLsbD 127 then 0x87#128 else 0#128))

/-- The doubling on the four-word form, as R272 also writes it. No command uses it; that it agrees with `dblLe` is a
statement. -/
def dblTweak (t : Tweak) : Tweak :=
  let carry := fun (w : Word) => if w.getLsbD 31 then 1#32 else 0#32
  ⟨(t.w0 <<< 1) ^^^ (if t.w3.getLsbD 31 then 0x87#32 else 0#32),
   (t.w1 <<< 1) ||| carry t.w0, (t.w2 <<< 1) ||| carry t.w1, (t.w3 <<< 1) ||| carry t.w2⟩

/-- `TwkCtx` (R271): XTS.TWK in two-key mode, XTS.DATA in single-key mode. -/
def tweakCtx (x : Xts) : AesCtx := if x.m then x.data else x.twk

/-- `XtsEnc(t, P)` (R273). -/
def xtsEnc (x : Xts) (t P : Block) : Block := xorBlock (aesEnc x.data x.v (xorBlock P t)) t

/-- `XtsDec(t, C)` (R273). -/
def xtsDec (x : Xts) (t C : Block) : Block := xorBlock (aesDec x.data x.v (xorBlock C t)) t

/-- The length of the key buffer for a variant and key mode (R274, R281). -/
def xtsKeyBytes (v : Variant) (m : Bool) : Nat := if m then keyBytes v else 2 * keyBytes v

/-- The context XTS.SETKEY leaves for variant `v`, mode `m` and key buffer `K`; the sector size is kept (R274). -/
def xtsSetup (v : Variant) (m : Bool) (K : List Quad) (sect : Word) : Xts :=
  { Xts.cleared sect with
    v := v, m := m, keyed := true
    data := aesSetup v (K.take (keyWords v))
    twk := if m then AesCtx.cleared else aesSetup v (K.drop (keyWords v)) }

end Sys2Proof.Machine
end

