-- ==== Sys2Proof/Machine/XtsCommands.lean ====
section
/-! DEFINITION. The meanings of the XTS commands (43_xts.md rules R274 to R282). -/

namespace Sys2Proof.Machine

/-- XTS.SETKEY (R274): ARG.V, then LEN, then the key's range; XTS.SECT is kept and the tweak is gone. -/
def execXtsSetkey (s : State) : Host.Outcome State Fault Refusal :=
  .next <|
    match argVariant s with
    | none => raise .errArg s
    | some v =>
      if s.len.toNat = xtsKeyBytes v (argM s) then
        if operandsInRange .keyVM s then
          complete { s with xts := xtsSetup v (argM s) (words (readSrc s.len.toNat s)) s.xts.sect }
        else raise .errRange s
      else raise .errLen s

/-- XTS.SETTWEAK (R275): the identifier of 0 to 16 bytes, zero-padded at the high end, goes through the tweak cipher. -/
def execXtsSettweak (s : State) : Host.Outcome State Fault Refusal :=
  .next <|
    if s.xts.keyed then
      if s.len.toNat ≤ 16 then
        if operandsInRange .input s then
          let T := aesEnc (tweakCtx s.xts) s.xts.v (blockOfBytes (readSrc s.len.toNat s))
          complete { s with xts := { s.xts with tw := pack T, tweaked := true } }
        else raise .errRange s
      else raise .errLen s
    else raise .errNoKey s

/-- The sector sizes XTS.SETSECT accepts (R276). -/
def sectorSizeOk (p : Params) (n : Nat) : Bool := n != 0 && n % 16 == 0 && n ≤ p.sectorMax

/-- XTS.SETSECT (R276): the sector size becomes LEN. -/
def execXtsSetsect (s : State) : Host.Outcome State Fault Refusal :=
  .next <|
    if sectorSizeOk s.params s.len.toNat then complete { s with xts := { s.xts with sect := s.len } }
    else raise .errLen s

/-- XTS.GETSECT (R277): RESULT is XTS.SECT. -/
def execXtsGetsect (s : State) : Host.Outcome State Fault Refusal := .next (complete (setResult s.xts.sect s))

/-- The blocks `k`, `k + 1`, … of a sector, `n` of them, the first under the tweak `t` (R278, R279): each 16-byte unit is
read before it is written (R68), and the tweak doubles. -/
def sectorBlocks (f : Block → Block → Block) : Nat → Nat → Block → State → State
  | 0, _, _, s => s
  | n + 1, k, t, s =>
    let P := blockOfBytes (memRead s.dmem (s.src.toNat + 16 * k) 16)
    sectorBlocks f n (k + 1) (dblLe t) { s with dmem := memWrite s.dmem (s.dst.toNat + 16 * k) (blockBytes (f t P)) }

/-- XTS.ENCSECT and XTS.DECSECT (R278, R279): a key and a tweak are needed; one sector of XTS.SECT bytes; the stored
tweak is not changed. -/
def sectorCommand (f : Xts → Block → Block → Block) (s : State) : Host.Outcome State Fault Refusal :=
  .next <|
    if s.xts.keyed then
      if s.xts.tweaked then
        if operandsInRange .sector s then
          complete (sectorBlocks (f s.xts) (s.xts.sect.toNat / 16) 0 (unpack s.xts.tw) s)
        else raise .errRange s
      else raise .errPhase s
    else raise .errNoKey s

/-- XTS.ENCSECT (R278): encrypts one sector. -/
def execXtsEncsect (s : State) : Host.Outcome State Fault Refusal := sectorCommand xtsEnc s

/-- XTS.DECSECT (R279): decrypts one sector. -/
def execXtsDecsect (s : State) : Host.Outcome State Fault Refusal := sectorCommand xtsDec s

/-- XTS.CLEAR (R280): the engine is cleared; XTS.SECT is kept. -/
def execXtsClear (s : State) : Host.Outcome State Fault Refusal :=
  .next (complete { s with xts := Xts.cleared s.xts.sect })

/-- XTS.KEYSIZE (R281): RESULT is the key buffer length for ARG.V and ARG.M. -/
def execXtsKeysize (s : State) : Host.Outcome State Fault Refusal :=
  .next <|
    match argVariant s with
    | none => raise .errArg s
    | some v => complete (setResult (BitVec.ofNat 32 (xtsKeyBytes v (argM s))) s)

/-- XTS.TWEAKSIZE (R282): RESULT is `XTS_TWEAKSIZE`. -/
def execXtsTweaksize (s : State) : Host.Outcome State Fault Refusal :=
  .next (complete (setResult Config.xtsTweakSize s))

end Sys2Proof.Machine
end

