-- ==== Sys2Proof/Machine/Dispatch.lean ====
section
/-! DEFINITION. One arm per command: which meaning it has (30_encoding.md rules R90 and R91). -/

namespace Sys2Proof.Machine

def exec (i : Instr) (s : State) : Host.Outcome State Fault Refusal :=
  match i with
  | .nop => Sys2Proof.Machine.execNop s
  | .subbytes => Sys2Proof.Machine.execSubbytes s
  | .shiftrows => Sys2Proof.Machine.execShiftrows s
  | .sbsr => Sys2Proof.Machine.execSbsr s
  | .isubbytes => Sys2Proof.Machine.execIsubbytes s
  | .ishiftrows => Sys2Proof.Machine.execIshiftrows s
  | .isrsb => Sys2Proof.Machine.execIsrsb s
  | .mixc => Sys2Proof.Machine.execMixc s
  | .imixc => Sys2Proof.Machine.execImixc s
  | .ark => Sys2Proof.Machine.execArk s
  | .subb => Sys2Proof.Machine.execSubb s
  | .isubb => Sys2Proof.Machine.execIsubb s
  | .xtime => Sys2Proof.Machine.execXtime s
  | .gmul => Sys2Proof.Machine.execGmul s
  | .rcon => Sys2Proof.Machine.execRcon s
  | .kcore => Sys2Proof.Machine.execKcore s
  | .subword => Sys2Proof.Machine.execSubword s
  | .kstep128 => Sys2Proof.Machine.execKstep128 s
  | .kstep192 => Sys2Proof.Machine.execKstep192 s
  | .kstep256 => Sys2Proof.Machine.execKstep256 s
  | .ikstep128 => Sys2Proof.Machine.execIkstep128 s
  | .ikstep192 => Sys2Proof.Machine.execIkstep192 s
  | .ikstep256 => Sys2Proof.Machine.execIkstep256 s
  | .aesf128Setkey => Sys2Proof.Machine.execAesf128Setkey s
  | .aesf128Enc => Sys2Proof.Machine.execAesf128Enc s
  | .aesf128Dec => Sys2Proof.Machine.execAesf128Dec s
  | .aesf128Clear => Sys2Proof.Machine.execAesf128Clear s
  | .aesf128Keysize => Sys2Proof.Machine.execAesf128Keysize s
  | .aesf128Blocksize => Sys2Proof.Machine.execAesf128Blocksize s
  | .aesf192Setkey => Sys2Proof.Machine.execAesf192Setkey s
  | .aesf192Enc => Sys2Proof.Machine.execAesf192Enc s
  | .aesf192Dec => Sys2Proof.Machine.execAesf192Dec s
  | .aesf192Clear => Sys2Proof.Machine.execAesf192Clear s
  | .aesf192Keysize => Sys2Proof.Machine.execAesf192Keysize s
  | .aesf192Blocksize => Sys2Proof.Machine.execAesf192Blocksize s
  | .aesf256Setkey => Sys2Proof.Machine.execAesf256Setkey s
  | .aesf256Enc => Sys2Proof.Machine.execAesf256Enc s
  | .aesf256Dec => Sys2Proof.Machine.execAesf256Dec s
  | .aesf256Clear => Sys2Proof.Machine.execAesf256Clear s
  | .aesf256Keysize => Sys2Proof.Machine.execAesf256Keysize s
  | .aesf256Blocksize => Sys2Proof.Machine.execAesf256Blocksize s
  | .aest128Setkey => Sys2Proof.Machine.execAest128Setkey s
  | .aest128Enc => Sys2Proof.Machine.execAest128Enc s
  | .aest128Dec => Sys2Proof.Machine.execAest128Dec s
  | .aest128Clear => Sys2Proof.Machine.execAest128Clear s
  | .aest128Keysize => Sys2Proof.Machine.execAest128Keysize s
  | .aest128Blocksize => Sys2Proof.Machine.execAest128Blocksize s
  | .aest256Setkey => Sys2Proof.Machine.execAest256Setkey s
  | .aest256Enc => Sys2Proof.Machine.execAest256Enc s
  | .aest256Dec => Sys2Proof.Machine.execAest256Dec s
  | .aest256Clear => Sys2Proof.Machine.execAest256Clear s
  | .aest256Keysize => Sys2Proof.Machine.execAest256Keysize s
  | .aest256Blocksize => Sys2Proof.Machine.execAest256Blocksize s
  | .aess128Setkey => Sys2Proof.Machine.execAess128Setkey s
  | .aess128Enc => Sys2Proof.Machine.execAess128Enc s
  | .aess128Dec => Sys2Proof.Machine.execAess128Dec s
  | .aess128Clear => Sys2Proof.Machine.execAess128Clear s
  | .aess128Keysize => Sys2Proof.Machine.execAess128Keysize s
  | .aess128Blocksize => Sys2Proof.Machine.execAess128Blocksize s
  | .aess256Setkey => Sys2Proof.Machine.execAess256Setkey s
  | .aess256Enc => Sys2Proof.Machine.execAess256Enc s
  | .aess256Dec => Sys2Proof.Machine.execAess256Dec s
  | .aess256Clear => Sys2Proof.Machine.execAess256Clear s
  | .aess256Keysize => Sys2Proof.Machine.execAess256Keysize s
  | .aess256Blocksize => Sys2Proof.Machine.execAess256Blocksize s
  | .eaxSetkey => Sys2Proof.Machine.execEaxSetkey s
  | .eaxSetiv => Sys2Proof.Machine.execEaxSetiv s
  | .eaxAad => Sys2Proof.Machine.execEaxAad s
  | .eaxEnc => Sys2Proof.Machine.execEaxEnc s
  | .eaxDec => Sys2Proof.Machine.execEaxDec s
  | .eaxTag => Sys2Proof.Machine.execEaxTag s
  | .eaxChktag => Sys2Proof.Machine.execEaxChktag s
  | .eaxClear => Sys2Proof.Machine.execEaxClear s
  | .eaxKeysize => Sys2Proof.Machine.execEaxKeysize s
  | .eaxIvsize => Sys2Proof.Machine.execEaxIvsize s
  | .eaxTagsize => Sys2Proof.Machine.execEaxTagsize s
  | .xtsSetkey => Sys2Proof.Machine.execXtsSetkey s
  | .xtsSettweak => Sys2Proof.Machine.execXtsSettweak s
  | .xtsSetsect => Sys2Proof.Machine.execXtsSetsect s
  | .xtsGetsect => Sys2Proof.Machine.execXtsGetsect s
  | .xtsEncsect => Sys2Proof.Machine.execXtsEncsect s
  | .xtsDecsect => Sys2Proof.Machine.execXtsDecsect s
  | .xtsClear => Sys2Proof.Machine.execXtsClear s
  | .xtsKeysize => Sys2Proof.Machine.execXtsKeysize s
  | .xtsTweaksize => Sys2Proof.Machine.execXtsTweaksize s

end Sys2Proof.Machine
end

