-- ==== Sys2Proof/Machine/Flags.lean ====
section
/-! DEFINITION. The block's only condition outputs: the STATUS word and the completion codes in it (10_state.md rules
R31 and R34; 60_exceptions.md rule R306). The block has no arithmetic flag (R34). -/

namespace Sys2Proof.Machine

/-- The number of a completion code (R306). -/
def codeByte : Code → Byte
  | .ok => 0x00
  | .errLen => 0x01
  | .errNoKey => 0x03
  | .errPhase => 0x04
  | .tagMismatch => 0x05
  | .errArg => 0x06
  | .errRange => 0x07
  | .errOpc => 0x08

/-- The codes that are errors (R306): a command that reports one has no other effect. -/
def codeIsError : Code → Bool
  | .ok | .tagMismatch => false
  | .errLen | .errNoKey | .errPhase | .errArg | .errRange | .errOpc => true

/-- The STATUS register as the host reads it (R31): CODE in bits 7:0, BUSY in bit 8, zero above. -/
def statusWord (s : State) : Word := (0#23 ++ BitVec.ofBool s.busy ++ codeByte s.code).setWidth 32

/-- The number of an EAX phase (R43). -/
def phaseBits : Phase → BitVec 3
  | .noKey => 0
  | .noIv => 1
  | .auth => 2
  | .cipher => 3
  | .done => 4

end Sys2Proof.Machine
end

