-- ==== Sys2Proof/Machine/HostPort.lean ====
section
/-! DEFINITION. The host port: register and DMEM accesses, the issue of a command, and the platform's reset
(10_state.md rules R24 to R33; 20_memory.md rules R61, R67, R70, R72; 30_encoding.md rule R87;
60_exceptions.md rule R321; 70_reset_and_hazards.md rules R331, R339, R349, R350). -/

namespace Sys2Proof.Machine

/-- A register access that the spec gives a meaning (R67): 32 bits wide, at a multiple of 4. -/
def accessOk (bits : Nat) (offset : BitVec 8) : Bool := bits == 32 && offset.toNat % 4 == 0

/-- What a host read of a register slot returns (R24): the readable registers, and zero for the reserved offsets
(R33). -/
def readSlot (offset : BitVec 8) (s : State) : Word :=
  match offset.toNat with
  | 0x00 => s.cmd
  | 0x04 => s.src
  | 0x08 => s.dst
  | 0x0C => s.len
  | 0x10 => s.arg
  | 0x14 => statusWord s
  | 0x18 => s.result
  | _ => 0

/-- A host write of `c` to CMD (R87): `c` is stored, then decoded, then executed; BUSY is 1 meanwhile (R31). -/
def issue (c : Word) (s : State) : Host.Outcome State Fault Refusal :=
  let s := { s with cmd := c, busy := true }
  match decode c with
  | .error _ => .next (raise .errOpc s)
  | .ok i => exec i s

/-- A host write to a register slot (R24): CMD executes a command (R25); SRC, DST, LEN and ARG store the value (R70);
STATUS, RESULT and the reserved offsets ignore it (R31, R32, R33). -/
def writeSlot (offset : BitVec 8) (v : Word) (s : State) : Host.Outcome State Fault Refusal :=
  match offset.toNat with
  | 0x00 => issue v s
  | 0x04 => .next { s with src := v }
  | 0x08 => .next { s with dst := v }
  | 0x0C => .next { s with len := v }
  | 0x10 => .next { s with arg := v }
  | _ => .next s

/-- The host's reads so far, and one more (R349). -/
def logRead (r : HostRead) (s : State) : State := { s with reads := s.reads ++ [r] }

/-- The access has no step while BUSY = 1: every one but a read of STATUS (R339). -/
def stuckWhileBusy : HostAction → Bool
  | .readReg _ offset => offset.toNat != 0x14
  | .writeReg _ _ _ => true
  | .readMem _ _ => true
  | .writeMem _ _ => true
  | .bus _ => true
  | .reset _ => false

/-- The byte offset in the register window of a host address, if the window appears there: 256 bytes from `REG_BASE` on
(R24). -/
def windowOffset (p : Params) (addr : Nat) : Option (BitVec 8) :=
  if p.regBase ≤ addr ∧ addr < p.regBase + 256 then some (BitVec.ofNat 8 (addr - p.regBase)) else none

/-- The DMEM address of a host address, if DMEM appears there: from `DMEM_BASE` on (R64). Whether the byte exists is the
access's own check (R61). -/
def dmemAddress (p : Params) (addr : Nat) : Option Nat :=
  if p.dmemBase ≤ addr then some (addr - p.dmemBase) else none

/-- The host's address map (R64): an access by a host address becomes the access at the block's port that it reaches, and
stays as it is where it reaches none. Every other action is at the port already. -/
def portAction (p : Params) (a : HostAction) : HostAction :=
  match a with
  | .bus (.readReg bits addr) => (windowOffset p addr).elim a fun o => .readReg bits o
  | .bus (.writeReg bits addr v) => (windowOffset p addr).elim a fun o => .writeReg bits o v
  | .bus (.readMem addr len) => (dmemAddress p addr).elim a fun d => .readMem d len
  | .bus (.writeMem addr data) => (dmemAddress p addr).elim a fun d => .writeMem d data
  | .readReg _ _ | .writeReg _ _ _ | .readMem _ _ | .writeMem _ _ | .reset _ => a

/-- One action at the host port, BUSY apart (R349, R350). An access by a host address is one that the address map could
not place (`portAction`). -/
def access (a : HostAction) (s : State) : Host.Outcome State Fault Refusal :=
  match a with
  | .readReg bits offset =>
    if accessOk bits offset then .next (logRead (.reg offset (readSlot offset s)) s) else .refused .registerAccess
  | .writeReg bits offset v => if accessOk bits offset then writeSlot offset v s else .refused .registerAccess
  | .readMem addr len =>
    if inRange s.params addr len then .next (logRead (.mem addr (memRead s.dmem addr len)) s)
    else .fault .hostDmemRange
  | .writeMem addr data =>
    if inRange s.params addr data.length then .next { s with dmem := memWrite s.dmem addr data }
    else .fault .hostDmemRange
  | .bus _ => .fault .hostAddress
  | .reset contents => .next (afterReset contents s)

/-- One action of the run (R349), at the place in the block's port that its address reaches (R64): while BUSY = 1 the
accesses of R339 have no step. R336 lets a model list a hazard as a premise or give the forbidden action no move; DESIGN
CHOICE (notes/assumptions/15.md): for the host's duties of R342 to R345, which the outcome of no command depends on, it
does neither, and every access has its full effect, also one on plaintext before the tag check (R343) or after a
configuration command whose STATUS was not read (R344). -/
def perform (a : HostAction) (s : State) : Host.Outcome State Fault Refusal :=
  let port := portAction s.params a
  if s.busy && stuckWhileBusy port then .fault .hostAccessWhileBusy else access port s

/-- The next action of the run is taken (R349). When none is left the run is over and the block waits for the host, its
state unchanged (R333). -/
def hostStep (s : State) : Host.Outcome State Fault Refusal :=
  match s.actions with
  | [] => .next s
  | a :: rest => perform a { s with actions := rest }

/-- The host's next action becomes the write of the word `w` to CMD (R25, R87); BUSY is 0, which the access needs. -/
def queueCommand (w : Word) (s : State) : State :=
  { s with actions := .writeReg 32 0x00 w :: s.actions, busy := false }

end Sys2Proof.Machine
end

