-- ==== Sys2Proof/Machine/Step.lean ====
section
/-! DEFINITION. One step of the run (70_reset_and_hazards.md rule R349): the host's next action. -/

namespace Sys2Proof.Machine

/-- One step: the next action at the host port; a CMD write runs its command to the end in the same step (R16, R72). -/
def step (s : State) : Host.Outcome State Fault Refusal := hostStep s

/-- `s` with the command word `w` (its bits above `nbits` zero) as the next thing the host writes to CMD: the block
fetches no instruction, it takes the command from that write (R75). -/
def State.withFetchWord (s : State) (nbits w : Nat) : State := queueCommand (BitVec.ofNat 32 (w % 2 ^ nbits)) s

end Sys2Proof.Machine
end

