-- ==== Sys2Proof/Machine/Assembler.lean ====
section
/-! DEFINITION. The assembly statements and pseudo-instructions (30_encoding.md rules R94 and R95): which host actions a
statement stands for. They are the host's way to write a run; the block knows none of them. -/

namespace Sys2Proof.Machine

/-- The mnemonic of a command (R90, R91). -/
def mnemonic : Instr → String
  | .nop => "NOP"
  | .subbytes => "SUBBYTES"
  | .shiftrows => "SHIFTROWS"
  | .sbsr => "SBSR"
  | .isubbytes => "ISUBBYTES"
  | .ishiftrows => "ISHIFTROWS"
  | .isrsb => "ISRSB"
  | .mixc => "MIXC"
  | .imixc => "IMIXC"
  | .ark => "ARK"
  | .subb => "SUBB"
  | .isubb => "ISUBB"
  | .xtime => "XTIME"
  | .gmul => "GMUL"
  | .rcon => "RCON"
  | .kcore => "KCORE"
  | .subword => "SUBWORD"
  | .kstep128 => "KSTEP128"
  | .kstep192 => "KSTEP192"
  | .kstep256 => "KSTEP256"
  | .ikstep128 => "IKSTEP128"
  | .ikstep192 => "IKSTEP192"
  | .ikstep256 => "IKSTEP256"
  | .aesf128Setkey => "AESF128.SETKEY"
  | .aesf128Enc => "AESF128.ENC"
  | .aesf128Dec => "AESF128.DEC"
  | .aesf128Clear => "AESF128.CLEAR"
  | .aesf128Keysize => "AESF128.KEYSIZE"
  | .aesf128Blocksize => "AESF128.BLOCKSIZE"
  | .aesf192Setkey => "AESF192.SETKEY"
  | .aesf192Enc => "AESF192.ENC"
  | .aesf192Dec => "AESF192.DEC"
  | .aesf192Clear => "AESF192.CLEAR"
  | .aesf192Keysize => "AESF192.KEYSIZE"
  | .aesf192Blocksize => "AESF192.BLOCKSIZE"
  | .aesf256Setkey => "AESF256.SETKEY"
  | .aesf256Enc => "AESF256.ENC"
  | .aesf256Dec => "AESF256.DEC"
  | .aesf256Clear => "AESF256.CLEAR"
  | .aesf256Keysize => "AESF256.KEYSIZE"
  | .aesf256Blocksize => "AESF256.BLOCKSIZE"
  | .aest128Setkey => "AEST128.SETKEY"
  | .aest128Enc => "AEST128.ENC"
  | .aest128Dec => "AEST128.DEC"
  | .aest128Clear => "AEST128.CLEAR"
  | .aest128Keysize => "AEST128.KEYSIZE"
  | .aest128Blocksize => "AEST128.BLOCKSIZE"
  | .aest256Setkey => "AEST256.SETKEY"
  | .aest256Enc => "AEST256.ENC"
  | .aest256Dec => "AEST256.DEC"
  | .aest256Clear => "AEST256.CLEAR"
  | .aest256Keysize => "AEST256.KEYSIZE"
  | .aest256Blocksize => "AEST256.BLOCKSIZE"
  | .aess128Setkey => "AESS128.SETKEY"
  | .aess128Enc => "AESS128.ENC"
  | .aess128Dec => "AESS128.DEC"
  | .aess128Clear => "AESS128.CLEAR"
  | .aess128Keysize => "AESS128.KEYSIZE"
  | .aess128Blocksize => "AESS128.BLOCKSIZE"
  | .aess256Setkey => "AESS256.SETKEY"
  | .aess256Enc => "AESS256.ENC"
  | .aess256Dec => "AESS256.DEC"
  | .aess256Clear => "AESS256.CLEAR"
  | .aess256Keysize => "AESS256.KEYSIZE"
  | .aess256Blocksize => "AESS256.BLOCKSIZE"
  | .eaxSetkey => "EAX.SETKEY"
  | .eaxSetiv => "EAX.SETIV"
  | .eaxAad => "EAX.AAD"
  | .eaxEnc => "EAX.ENC"
  | .eaxDec => "EAX.DEC"
  | .eaxTag => "EAX.TAG"
  | .eaxChktag => "EAX.CHKTAG"
  | .eaxClear => "EAX.CLEAR"
  | .eaxKeysize => "EAX.KEYSIZE"
  | .eaxIvsize => "EAX.IVSIZE"
  | .eaxTagsize => "EAX.TAGSIZE"
  | .xtsSetkey => "XTS.SETKEY"
  | .xtsSettweak => "XTS.SETTWEAK"
  | .xtsSetsect => "XTS.SETSECT"
  | .xtsGetsect => "XTS.GETSECT"
  | .xtsEncsect => "XTS.ENCSECT"
  | .xtsDecsect => "XTS.DECSECT"
  | .xtsClear => "XTS.CLEAR"
  | .xtsKeysize => "XTS.KEYSIZE"
  | .xtsTweaksize => "XTS.TWEAKSIZE"

/-- What a statement says about ARG (R94): nothing, a whole value, or some of the sub-fields. DESIGN CHOICE
(notes/assumptions/13.md): R94 does not say what ARG gets from a statement that gives both `arg` and a sub-field, and such
a statement cannot be written here. -/
inductive ArgOperand where
  /-- ARG keeps its value. -/
  | keep
  /-- `arg=value`. -/
  | word (value : Word)
  /-- Some of `a`, `b`, `v`, `m`; the other bits are 0. -/
  | fields (a b : Option Byte) (v : Option (BitVec 3)) (m : Option Bool)
deriving DecidableEq, Repr

/-- One statement `MNEMONIC [field=value …]` (R94). -/
structure Stmt where
  instr : Instr
  src : Option Word := none
  dst : Option Word := none
  len : Option Word := none
  arg : ArgOperand := .keep
deriving DecidableEq, Repr

/-- A field of ARG at its place, or zero where the statement does not give it (R89, R94). -/
def fieldAt {w : Nat} (place : Nat) (x : Option (BitVec w)) : Word :=
  match x with
  | none => 0
  | some b => (b.setWidth 32) <<< place

/-- The value a statement writes to ARG, if it writes ARG (R94). Sub-fields that overlap are or-ed; no command uses two
that do (notes/assumptions/13.md). -/
def argValue : ArgOperand → Option Word
  | .keep => none
  | .word value => some value
  | .fields none none none none => none
  | .fields a b v m =>
    some (fieldAt 0 a ||| fieldAt 8 b ||| fieldAt 0 v ||| fieldAt 8 (m.map BitVec.ofBool))

/-- The write of a register the statement names (R94). -/
def namedWrite (offset : BitVec 8) (value : Option Word) : List HostAction :=
  match value with
  | none => []
  | some v => [.writeReg 32 offset v]

/-- What a statement assembles to (R94): SRC, DST, LEN and ARG where it names them, then `zext_32(OPC)` to CMD. -/
def assemble (c : Stmt) : List HostAction :=
  namedWrite 0x04 c.src ++ namedWrite 0x08 c.dst ++ namedWrite 0x0C c.len ++ namedWrite 0x10 (argValue c.arg) ++
    [.writeReg 32 0x00 (encode c.instr)]

/-- One `field=value` of a statement, the value in decimal (R94). -/
def fieldText {w : Nat} (name : String) (x : Option (BitVec w)) : List String :=
  match x with
  | none => []
  | some v => [name ++ "=" ++ Nat.repr v.toNat]

/-- The fields a statement gives for ARG, as text (R94). -/
def argText : ArgOperand → List String
  | .keep => []
  | .word value => fieldText "arg" (some value)
  | .fields a b v m => fieldText "a" a ++ fieldText "b" b ++ fieldText "v" v ++ fieldText "m" (m.map BitVec.ofBool)

/-- A statement as text: the mnemonic, then its fields, set off by commas (R94). -/
def stmtText (c : Stmt) : String :=
  let fields := fieldText "src" c.src ++ fieldText "dst" c.dst ++ fieldText "len" c.len ++ argText c.arg
  if fields.isEmpty then mnemonic c.instr else mnemonic c.instr ++ " " ++ ", ".intercalate fields

/-- The pseudo-instructions (R95), their operands named as there. -/
inductive Pseudo where
  | aesRound (s k : Word)
  | aesLastRound (s k : Word)
  | aesIRound (s k : Word)
  | aesILastRound (s k : Word)
  | eaxSeal (n nl h hl p pl c t : Word)
  | eaxOpen (n nl h hl c cl p t tl : Word)
  | waitIdle
deriving DecidableEq, Repr

/-- The statements a pseudo-instruction expands to (R95); WAITIDLE issues no command. -/
def expand : Pseudo → List Stmt
  | .aesRound s k =>
    [{ instr := .sbsr, src := s, dst := s }, { instr := .mixc, src := s, dst := s }, { instr := .ark, src := k, dst := s }]
  | .aesLastRound s k => [{ instr := .sbsr, src := s, dst := s }, { instr := .ark, src := k, dst := s }]
  | .aesIRound s k =>
    [{ instr := .isrsb, src := s, dst := s }, { instr := .ark, src := k, dst := s }, { instr := .imixc, src := s, dst := s }]
  | .aesILastRound s k => [{ instr := .isrsb, src := s, dst := s }, { instr := .ark, src := k, dst := s }]
  | .eaxSeal n nl h hl p pl c t =>
    [{ instr := .eaxSetiv, src := n, len := nl }, { instr := .eaxAad, src := h, len := hl },
     { instr := .eaxEnc, src := p, dst := c, len := pl }, { instr := .eaxTag, dst := t, len := some 16 }]
  | .eaxOpen n nl h hl c cl p t tl =>
    [{ instr := .eaxSetiv, src := n, len := nl }, { instr := .eaxAad, src := h, len := hl },
     { instr := .eaxDec, src := c, dst := p, len := cl }, { instr := .eaxChktag, src := t, len := tl }]
  | .waitIdle => []

/-- The host actions of a pseudo-instruction (R95). WAITIDLE reads STATUS until BUSY = 0, which the first read returns
(R31; notes/assumptions/13.md). -/
def pseudoActions : Pseudo → List HostAction
  | .waitIdle => [.readReg 32 0x14]
  | p => (expand p).flatMap assemble

end Sys2Proof.Machine
end

