-- ==== Sys2Proof/Safety.lean ====
section
/-! DEFINITION. The terms the claims are stated in: which codes a command may report and in which order it checks
(60_exceptions.md rules R306, R308, R309), the invariants of the contexts (10_state.md rules R36 to R39, R42, R46), what
a command reads, and reference functions for CMAC and the EAX keystream (42_eax.md rules R238, R239, R248). A safe run
is one in which every step is a next state whose code is no error. -/

namespace Sys2Proof.Machine

/-! ### The variant commands by variant (30_encoding.md rule R91) -/

/-- AES<v>.SETKEY. -/
def setkeyOf : Variant → Instr
  | .full128 => .aesf128Setkey
  | .full192 => .aesf192Setkey
  | .full256 => .aesf256Setkey
  | .tiny128 => .aest128Setkey
  | .tiny256 => .aest256Setkey
  | .small128 => .aess128Setkey
  | .small256 => .aess256Setkey

/-- AES<v>.ENC. -/
def encOf : Variant → Instr
  | .full128 => .aesf128Enc
  | .full192 => .aesf192Enc
  | .full256 => .aesf256Enc
  | .tiny128 => .aest128Enc
  | .tiny256 => .aest256Enc
  | .small128 => .aess128Enc
  | .small256 => .aess256Enc

/-- AES<v>.DEC. -/
def decOf : Variant → Instr
  | .full128 => .aesf128Dec
  | .full192 => .aesf192Dec
  | .full256 => .aesf256Dec
  | .tiny128 => .aest128Dec
  | .tiny256 => .aest256Dec
  | .small128 => .aess128Dec
  | .small256 => .aess256Dec

/-- AES<v>.CLEAR. -/
def clearOf : Variant → Instr
  | .full128 => .aesf128Clear
  | .full192 => .aesf192Clear
  | .full256 => .aesf256Clear
  | .tiny128 => .aest128Clear
  | .tiny256 => .aest256Clear
  | .small128 => .aess128Clear
  | .small256 => .aess256Clear

/-- AES<v>.KEYSIZE. -/
def keysizeOf : Variant → Instr
  | .full128 => .aesf128Keysize
  | .full192 => .aesf192Keysize
  | .full256 => .aesf256Keysize
  | .tiny128 => .aest128Keysize
  | .tiny256 => .aest256Keysize
  | .small128 => .aess128Keysize
  | .small256 => .aess256Keysize

/-- AES<v>.BLOCKSIZE. -/
def blocksizeOf : Variant → Instr
  | .full128 => .aesf128Blocksize
  | .full192 => .aesf192Blocksize
  | .full256 => .aesf256Blocksize
  | .tiny128 => .aest128Blocksize
  | .tiny256 => .aest256Blocksize
  | .small128 => .aess128Blocksize
  | .small256 => .aess256Blocksize

/-! ### The checks of a command (60_exceptions.md rules R306 and R308) -/

/-- A reserved value in an ARG field the command reads (R306, row ERR_ARG): ARG.A outside 1 … 10, or ARG.V = 7. -/
def argFails (i : Instr) (s : State) : Bool :=
  match i with
  | .rcon | .kcore | .kstep128 | .kstep192 | .kstep256 | .ikstep128 | .ikstep192 | .ikstep256 =>
    (argA s).toNat < 1 || 10 < (argA s).toNat
  | .eaxSetkey | .eaxKeysize | .xtsSetkey | .xtsKeysize => (argV s).toNat == 7
  | _ => false

/-- The unit the command uses has no key (R306, row ERR_NOKEY). -/
def noKeyFails (i : Instr) (s : State) : Bool :=
  match i with
  | .aesf128Enc | .aesf128Dec => !(ctxOf .full128 s).keyed
  | .aesf192Enc | .aesf192Dec => !(ctxOf .full192 s).keyed
  | .aesf256Enc | .aesf256Dec => !(ctxOf .full256 s).keyed
  | .aest128Enc | .aest128Dec => !(ctxOf .tiny128 s).keyed
  | .aest256Enc | .aest256Dec => !(ctxOf .tiny256 s).keyed
  | .aess128Enc | .aess128Dec => !(ctxOf .small128 s).keyed
  | .aess256Enc | .aess256Dec => !(ctxOf .small256 s).keyed
  | .eaxSetiv | .eaxAad | .eaxEnc | .eaxDec | .eaxTag | .eaxChktag => s.eax.ph == .noKey
  | .xtsSettweak | .xtsEncsect | .xtsDecsect => !s.xts.keyed
  | _ => false

/-- The unit's phase does not allow the command (R306, row ERR_PHASE). -/
def phaseFails (i : Instr) (s : State) : Bool :=
  match i with
  | .eaxAad => s.eax.ph != .auth
  | .eaxEnc | .eaxDec => s.eax.ph == .noIv || s.eax.ph == .done
  | .eaxTag | .eaxChktag => s.eax.ph == .noIv
  | .xtsEncsect | .xtsDecsect => !s.xts.tweaked
  | _ => false

/-- The key length the command expects, for the SETKEY commands (R161, R240, R274). -/
def expectedKeyBytes (i : Instr) (s : State) : Option Nat :=
  match i with
  | .aesf128Setkey | .aest128Setkey | .aess128Setkey => some 16
  | .aesf192Setkey => some 24
  | .aesf256Setkey | .aest256Setkey | .aess256Setkey => some 32
  | .eaxSetkey => (argVariant s).map keyBytes
  | .xtsSetkey => (argVariant s).map fun v => if argM s then keyBytes v else 2 * keyBytes v
  | _ => none

/-- LEN is not a length the command accepts (R306, row ERR_LEN). -/
def lenFails (i : Instr) (s : State) : Bool :=
  match i with
  | .xtsSettweak => 16 < s.len.toNat
  | .xtsSetsect => s.len.toNat == 0 || s.len.toNat % 16 != 0 || s.params.sectorMax < s.len.toNat
  | _ =>
    match expectedKeyBytes i s with
    | some n => s.len.toNat != n
    | none => false

/-- A DMEM range the command's format checks is not inside DMEM (R306, row ERR_RANGE; R66, R88). -/
def rangeFails (i : Instr) (s : State) : Bool :=
  (formatRanges (formatOf i) s).any fun r => r.2 != 0 && s.params.dmemSize < r.1 + r.2

/-- The first check that fails, in the order of R308. -/
def firstError (i : Instr) (s : State) : Option Code :=
  if argFails i s then some .errArg
  else if noKeyFails i s then some .errNoKey
  else if phaseFails i s then some .errPhase
  else if lenFails i s then some .errLen
  else if rangeFails i s then some .errRange
  else none

/-! ### What a command reads and which unit it uses (30_encoding.md rule R88; 10_state.md rule R35) -/

/-- The format reads SRC (R88, column 2). -/
def readsSrc : Format → Bool
  | .blk | .blk2 | .win _ | .word | .wordI | .key | .keyV | .keyVM | .input | .stream | .check | .sector => true
  | .n | .q | .qv | .qvm | .byte | .byte2 | .output | .lenOnly => false

/-- The format reads DST (R88, column 2). -/
def readsDst : Format → Bool
  | .blk | .blk2 | .win _ | .word | .wordI | .stream | .output | .sector => true
  | .n | .q | .qv | .qvm | .byte | .byte2 | .key | .keyV | .keyVM | .input | .check | .lenOnly => false

/-- The format reads LEN (R88, column 2). -/
def readsLen : Format → Bool
  | .key | .keyV | .keyVM | .input | .stream | .output | .check | .lenOnly => true
  | .n | .q | .qv | .qvm | .byte | .byte2 | .blk | .blk2 | .win _ | .word | .wordI | .sector => false

/-- The bits of ARG the format reads (R88, column 2; R89). -/
def argMask : Format → Word
  | .byte | .win _ | .wordI => 0x000000FF
  | .byte2 => 0x0000FFFF
  | .qv | .keyV => 0x00000007
  | .qvm | .keyVM => 0x00000107
  | .n | .q | .blk | .blk2 | .word | .key | .input | .stream | .output | .check | .lenOnly | .sector => 0x00000000

/-- The units that own a context (R35). -/
inductive Owner where
  /-- NOP and the primitives, which use no context (R155). -/
  | none
  /-- AES variant `v`, which owns `ctx[v]`. -/
  | aes (v : Variant)
  | eax
  | xts
deriving DecidableEq, Repr

/-- The unit of a command (R90, R91). -/
def ownerOf : Instr → Owner
  | .nop | .subbytes | .shiftrows | .sbsr | .isubbytes | .ishiftrows | .isrsb | .mixc | .imixc | .ark => .none
  | .subb | .isubb | .xtime | .gmul | .rcon | .kcore | .subword => .none
  | .kstep128 | .kstep192 | .kstep256 | .ikstep128 | .ikstep192 | .ikstep256 => .none
  | .aesf128Setkey | .aesf128Enc | .aesf128Dec | .aesf128Clear | .aesf128Keysize | .aesf128Blocksize => .aes .full128
  | .aesf192Setkey | .aesf192Enc | .aesf192Dec | .aesf192Clear | .aesf192Keysize | .aesf192Blocksize => .aes .full192
  | .aesf256Setkey | .aesf256Enc | .aesf256Dec | .aesf256Clear | .aesf256Keysize | .aesf256Blocksize => .aes .full256
  | .aest128Setkey | .aest128Enc | .aest128Dec | .aest128Clear | .aest128Keysize | .aest128Blocksize => .aes .tiny128
  | .aest256Setkey | .aest256Enc | .aest256Dec | .aest256Clear | .aest256Keysize | .aest256Blocksize => .aes .tiny256
  | .aess128Setkey | .aess128Enc | .aess128Dec | .aess128Clear | .aess128Keysize | .aess128Blocksize => .aes .small128
  | .aess256Setkey | .aess256Enc | .aess256Dec | .aess256Clear | .aess256Keysize | .aess256Blocksize => .aes .small256
  | .eaxSetkey | .eaxSetiv | .eaxAad | .eaxEnc | .eaxDec | .eaxTag | .eaxChktag | .eaxClear => .eax
  | .eaxKeysize | .eaxIvsize | .eaxTagsize => .eax
  | .xtsSetkey | .xtsSettweak | .xtsSetsect | .xtsGetsect | .xtsEncsect | .xtsDecsect | .xtsClear => .xts
  | .xtsKeysize | .xtsTweaksize => .xts

/-- The commands that write RESULT when they do not raise (R32): the queries, the byte functions and EAX.CHKTAG. -/
def writesResult (i : Instr) : Bool :=
  match formatOf i with
  | .q | .qv | .qvm | .byte | .byte2 | .check => true
  | .n | .blk | .blk2 | .win _ | .word | .wordI | .key | .keyV | .keyVM | .input | .stream | .output | .lenOnly
  | .sector => false

/-! ### Invariants -/

/-- A context is cleared, or is what AesSetup makes of some key of the variant's length (R36, R37, R38, R48). -/
def Regenerable (v : Variant) (c : AesCtx) : Prop :=
  c = AesCtx.cleared ∨ ∃ K : List Quad, K.length = keyWords v ∧ c = aesSetup v K

/-- DMEM is canonical and lists only addresses that exist (R61). -/
def DmemInv (s : State) : Prop := s.dmem.wf = true ∧ s.dmem.below s.params.dmemSize = true

/-- Every AES context is regenerable (R36 to R38). -/
def CtxInv (s : State) : Prop := ∀ v, Regenerable v (ctxOf v s)

/-- The MAC subkeys are those of the embedded cipher (R233). -/
def SubkeysDerived (e : Eax) : Prop :=
  e.mac.k1 = dblBe (eaxCipher e Block.zero) ∧ e.mac.k2 = dblBe (dblBe (eaxCipher e Block.zero))

/-- The EAX context (R40, R42, R233, R235, R237): keyed exactly outside NOKEY, and cleared in NOKEY; the subkeys those of
the key; the counts in range; a MAC open, with 1 to 16 bytes pending, exactly in AUTH and CIPHER. -/
def EaxInv (s : State) : Prop :=
  Regenerable s.eax.v s.eax.ciph ∧
  (s.eax.ciph.keyed = true ↔ s.eax.ph ≠ .noKey) ∧
  (s.eax.ph = .noKey → s.eax = Eax.cleared) ∧
  (s.eax.ph ≠ .noKey → SubkeysDerived s.eax) ∧
  s.eax.posn ≤ 16 ∧ s.eax.mac.blen ≤ 16 ∧
  (s.eax.ph = .auth ∨ s.eax.ph = .cipher → 1 ≤ s.eax.mac.blen) ∧
  (¬(s.eax.ph = .auth ∨ s.eax.ph = .cipher) →
    s.eax.mac.acc = Block.zero ∧ s.eax.mac.buf = Block.zero ∧ s.eax.mac.blen = 0)

/-- The XTS context (R44, R46): its flags agree with its ciphers, it is cleared but for the sector size while it has no
key, and the sector size is one that R276 accepts under parameters that R9 allows. -/
def XtsInv (s : State) : Prop :=
  s.params.wf = true ∧
  Regenerable s.xts.v s.xts.data ∧ Regenerable s.xts.v s.xts.twk ∧
  (s.xts.keyed = true ↔ s.xts.data.keyed = true) ∧
  (s.xts.twk.keyed = true ↔ s.xts.keyed = true ∧ s.xts.m = false) ∧
  (s.xts.tweaked = true → s.xts.keyed = true) ∧
  (s.xts.keyed = false → s.xts = Xts.cleared s.xts.sect) ∧
  s.xts.sect.toNat % 16 = 0 ∧ 16 ≤ s.xts.sect.toNat ∧ s.xts.sect.toNat ≤ s.params.sectorMax

/-! ### Reference functions -/

/-- The last block CMAC encrypts, of a message part of at most sixteen bytes (R237). -/
def cmacLast (k1 k2 : Block) (M : List Byte) : Block :=
  if M.length = 16 then xorBlock (blockOfBytes M) k1 else xorBlock (blockOfBytes (M ++ [0x80#8])) k2

/-- CMAC from the chaining value `acc` on, over at most `16·n` bytes. -/
def cmacFrom (E : Block → Block) (k1 k2 : Block) : Nat → Block → List Byte → Block
  | 0, acc, _ => acc
  | n + 1, acc, M =>
    if M.length ≤ 16 then E (xorBlock acc (cmacLast k1 k2 M))
    else cmacFrom E k1 k2 n (E (xorBlock acc (blockOfBytes (M.take 16)))) (M.drop 16)

/-- CMAC of a byte string under the block cipher `E`, with the subkeys of R233, taken sixteen bytes at a time. -/
def cmac (E : Block → Block) (M : List Byte) : Block :=
  cmacFrom E (dblBe (E Block.zero)) (dblBe (dblBe (E Block.zero))) (M.length / 16 + 1) Block.zero M

/-- `OMAC^t(M) = CMAC([t]_16 || M)` (R234, R238), under the cipher of the engine. -/
def omac (e : Eax) (t : Byte) (M : List Byte) : Block := cmac (eaxCipher e) (blockBytes (tagBlock t) ++ M)

/-- The next `n` keystream bytes, from `KsNext()` taken `n` times (R239). -/
def keystream : Nat → Eax → List Byte
  | 0, _ => []
  | n + 1, e => (ksNext e).1 :: keystream n (ksNext e).2

/-- EAX.ENC or EAX.DEC as a function of the input bytes alone: the output bytes and the context after them (R244,
R245). The commands work byte by byte on DMEM instead. -/
def streamRef (decrypting : Bool) : Eax → List Byte → List Byte × Eax
  | e, [] => ([], e)
  | e, x :: xs =>
    let y := x ^^^ (ksNext e).1
    let r := streamRef decrypting (macAbsorb (ksNext e).2 (if decrypting then x else y)) xs
    (y :: r.1, r.2)

/-- The ciphertext bytes among the input and the output of a stream (R248): the output of ENC, the input of DEC. -/
def ciphertextOf (decrypting : Bool) (input output : List Byte) : List Byte := if decrypting then input else output

/-- The input range and the output range of a command are the same or disjoint (R69). -/
def sameOrDisjoint (src dst n : Nat) : Bool := src == dst || src + n ≤ dst || dst + n ≤ src

end Sys2Proof.Machine
end

