-- ==== Sys2Proof/WellFormed.lean ====
section
/-! DEFINITION. What a well-formed command word is, from the list of reserved encodings (30_encoding.md rules R86 and
R92). The decoder (Decode.lean) is written from the list of assigned opcodes (R90)
instead; that the two lists agree is a statement. -/

namespace Sys2Proof

/-- The opcodes R92 lists as reserved, as ranges of first and last value. -/
def reservedRanges : List (Nat × Nat) :=
  [(0x0A, 0x0F), (0x15, 0x17), (0x20, 0x3F)] ++
  [(0x46, 0x47), (0x4E, 0x4F), (0x56, 0x57), (0x5E, 0x5F), (0x66, 0x67), (0x6E, 0x6F), (0x76, 0x77)] ++
  [(0x78, 0x7F), (0x8B, 0x9F), (0xA9, 0xFF)]

/-- An opcode value that R92 reserves. -/
def opcodeReserved (o : Nat) : Bool := reservedRanges.any fun r => r.1 ≤ o && o ≤ r.2

/-- A command word that R92 does not reserve: `CMD[31:8]` is zero and `CMD[7:0]` is in none of the reserved ranges.
A command itself has no operand field that could hold a wrong value (R86, R89), so there is nothing else to check. -/
def wordWellFormed (w : Word) : Bool := w.toNat / 256 == 0 && !opcodeReserved (w.toNat % 256)

end Sys2Proof
end

