-- ==== Sys2Proof/Certificates/Slice0/Obligations.lean ====
section
/-! DEFINITION. The statements for the provers, each with the rule of the spec it formalises. -/

open Sys2Proof Sys2Proof.Machine Host.Outcome

/-! ### The command word -/

/-- 30_encoding.md R86, R87, R90, R91: a command's word decodes to that command, and no other word does, so the decoder
drops no bit. -/
def Obligations.DecodeInvertsEncode : Prop :=
  ∀ i : Instr, decode (encode i) = .ok i ∧ ∀ w : Word, decode w = .ok i → w = encode i

/-- R87, R92, R90: a word is reserved exactly if it decodes to no command; a host write of a reserved word to CMD stores
the word and reports ERR_OPC, and does nothing else. -/
def Obligations.ReservedWordRaisesErrOpc : Prop :=
  (∀ w : Word, wordWellFormed w = false ↔ ¬ ∃ i, decode w = .ok i) ∧
  ∀ (s : State) (w : Word) (rest : List HostAction), s.busy = false → s.actions = .writeReg 32 0x00 w :: rest →
    wordWellFormed w = false →
    step s = next { s with actions := rest, cmd := w, code := .errOpc }

/-- R90, R91: words written out from the opcode map decode to the commands they stand for, and the neighbours that R92
reserves do not decode. -/
def Obligations.SampleWordsDecode : Prop :=
  decode 0x00000000 = .ok .nop ∧ decode 0x00000009 = .ok .ark ∧ decode 0x00000013 = .ok .gmul ∧
  decode 0x0000001F = .ok .ikstep256 ∧ decode 0x00000040 = .ok .aesf128Setkey ∧ decode 0x0000004A = .ok .aesf192Dec ∧
  decode 0x00000075 = .ok .aess256Blocksize ∧ decode 0x00000086 = .ok .eaxChktag ∧
  decode 0x000000A8 = .ok .xtsTweaksize ∧
  decode 0x0000000A = .error .opcodeUnassigned ∧ decode 0x00000046 = .error .opcodeUnassigned ∧
  decode 0x00000078 = .error .opcodeUnassigned ∧ decode 0x00000141 = .error .rsvdNotZero

/-! ### The host port -/

/-- R25, R87: when the host's next action is a 32-bit write to CMD of a word that decodes to `i`, the step is `exec i` of
the state in which the action is gone, CMD holds the word and BUSY is 1. -/
def Obligations.StepRunsTheDecodedCommand : Prop :=
  ∀ (s : State) (w : Word) (i : Instr) (rest : List HostAction),
    s.busy = false → s.actions = .writeReg 32 0x00 w :: rest → decode w = .ok i →
    step s = exec i { s with actions := rest, cmd := w, busy := true }

/-- R24 to R33: what a 32-bit read and a 32-bit write of each register slot do, CMD writes apart. R24, R64, R9: an access
of any width by the host address `REG_BASE + o` is the access at offset `o`, CMD writes and BUSY included. -/
def Obligations.RegisterWindow : Prop :=
  ∀ (s : State) (rest : List HostAction) (o : BitVec 8) (v : Word) (bits : Nat),
    (s.busy = false → s.actions = .readReg 32 o :: rest → o.toNat % 4 = 0 →
      step s = next { s with
        actions := rest
        reads := s.reads ++ [.reg o (
          if o = 0x00 then s.cmd else if o = 0x04 then s.src else if o = 0x08 then s.dst else if o = 0x0C then s.len
          else if o = 0x10 then s.arg else if o = 0x14 then (codeByte s.code).setWidth 32
          else if o = 0x18 then s.result else 0)] }) ∧
    (s.busy = false → s.actions = .writeReg 32 o v :: rest → o.toNat % 4 = 0 → o ≠ 0x00 →
      step s = next { s with
        actions := rest
        src := if o = 0x04 then v else s.src
        dst := if o = 0x08 then v else s.dst
        len := if o = 0x0C then v else s.len
        arg := if o = 0x10 then v else s.arg }) ∧
    (s.actions = .bus (.readReg bits (s.params.regBase + o.toNat)) :: rest →
      step s = step { s with actions := .readReg bits o :: rest }) ∧
    (s.actions = .bus (.writeReg bits (s.params.regBase + o.toNat) v) :: rest →
      step s = step { s with actions := .writeReg bits o v :: rest })

/-- R67: a host register access that is not 32 bits wide, or not at a multiple of 4, is refused. -/
def Obligations.OtherRegisterAccessIsRefused : Prop :=
  ∀ (s : State) (rest : List HostAction) (bits : Nat) (o : BitVec 8) (v : Word), s.busy = false →
    bits ≠ 32 ∨ o.toNat % 4 ≠ 0 →
    (s.actions = .readReg bits o :: rest → step s = refused .registerAccess) ∧
    (s.actions = .writeReg bits o v :: rest → step s = refused .registerAccess)

/-- R62, R72: the host's write to existing DMEM bytes is what its next read of them returns, and other bytes keep their
value. R64, R9: an access by the host address `DMEM_BASE + a` is the access at DMEM address `a`. -/
def Obligations.HostDmemReadAfterWrite : Prop :=
  (∀ (s : State) (a : Nat) (bs : List Byte) (rest : List HostAction),
    s.busy = false → s.dmem.wf = true → a + bs.length ≤ s.params.dmemSize →
    s.actions = .writeMem a bs :: .readMem a bs.length :: rest →
    ∃ t, step s = next t ∧ step t = next { t with actions := rest, reads := s.reads ++ [.mem a bs] } ∧
      ∀ c, c < a ∨ a + bs.length ≤ c → t.dmem.read c = s.dmem.read c) ∧
  ∀ (s : State) (a n : Nat) (bs : List Byte) (rest : List HostAction),
    (s.actions = .bus (.readMem (s.params.dmemBase + a) n) :: rest →
      step s = step { s with actions := .readMem a n :: rest }) ∧
    (s.actions = .bus (.writeMem (s.params.dmemBase + a) bs) :: rest →
      step s = step { s with actions := .writeMem a bs :: rest })

/-- R339, R321: while BUSY = 1 no host access but a read of STATUS has a step: not a register write, a DMEM read or a DMEM
write, nor a read of another register, be it at the port or by a host address. A 32-bit read of STATUS returns BUSY = 1; a
read of it of another width is refused (R67). The platform's reset is no host access, and it has a step
(notes/assumptions/5.md). -/
def Obligations.HostAccessWhileBusyHasNoStep : Prop :=
  ∀ (s : State) (rest : List HostAction) (a : HostAction), s.busy = true → s.actions = a :: rest →
    ((∃ bits o v, a = .writeReg bits o v) ∨ (∃ addr n, a = .readMem addr n) ∨ (∃ addr bs, a = .writeMem addr bs) ∨
      (∃ bits o, a = .readReg bits o ∧ o ≠ 0x14) →
      step s = fault .hostAccessWhileBusy) ∧
    ((∃ bits addr v, a = .bus (.writeReg bits addr v)) ∨ (∃ addr n, a = .bus (.readMem addr n)) ∨
      (∃ addr bs, a = .bus (.writeMem addr bs)) ∨
      (∃ bits addr, a = .bus (.readReg bits addr) ∧ addr ≠ s.params.regBase + 0x14) →
      step s = fault .hostAccessWhileBusy) ∧
    (a = .readReg 32 0x14 ∨ a = .bus (.readReg 32 (s.params.regBase + 0x14)) →
      step s = next { s with
        actions := rest, reads := s.reads ++ [.reg 0x14 (0x100#32 ||| (codeByte s.code).setWidth 32)] }) ∧
    (∀ bits, bits ≠ 32 → a = .readReg bits 0x14 ∨ a = .bus (.readReg bits (s.params.regBase + 0x14)) →
      step s = refused .registerAccess) ∧
    (∀ contents, a = .reset contents → ∃ t, step s = next t)

/-- R49, R331, R332, R62: the state after reset, as the model holds it and as the host reads it; and the platform's reset
puts every register and context at its reset value, whatever the state before it was, with DMEM contents that come from
outside. -/
def Obligations.ResetLeavesTheResetValues : Prop :=
  (∀ o : BitVec 8, readSlot o State.reset = 0) ∧
  State.reset.code = .ok ∧ State.reset.busy = false ∧
  (∀ v, ctxOf v State.reset = AesCtx.cleared) ∧
  State.reset.eax = Eax.cleared ∧ State.reset.eax.ph = .noKey ∧
  State.reset.xts = Xts.cleared 512 ∧
  ∀ (s : State) (contents : List Host.Cell) (rest : List HostAction), s.actions = .reset contents :: rest →
    ∃ t, step s = next t ∧
      t = { State.reset with params := s.params, actions := rest, reads := s.reads, dmem := t.dmem }

/-- R334: for each unit the state after reset is the state after its CLEAR command, XTS.SECT apart, which XTS.CLEAR keeps
and reset sets to 512; reset zeroes the registers, and no CLEAR command writes one. -/
def Obligations.ClearLeavesTheResetState : Prop :=
  let registers := fun u : State => (u.cmd, u.src, u.dst, u.len, u.arg, u.result)
  registers State.reset = (0, 0, 0, 0, 0, 0) ∧ State.reset.xts.sect = 512 ∧
  ∀ s : State,
    (∀ v, ∃ t, exec (clearOf v) s = next t ∧ ctxOf v t = ctxOf v State.reset ∧ registers t = registers s) ∧
    (∃ t, exec .eaxClear s = next t ∧ t.eax = State.reset.eax ∧ registers t = registers s) ∧
    (∃ t, exec .xtsClear s = next t ∧ t.xts = { State.reset.xts with sect := s.xts.sect } ∧
      registers t = registers s)

/-! ### What every command does, and leaves -/

/-- R350, R88: a command changes no DMEM byte outside the range from DST on that its format writes. -/
def Obligations.CommandsKeepDmemOutsideTheirRange : Prop :=
  ∀ (i : Instr) (s t : State), exec i s = next t →
    ∀ a, a < s.dst.toNat ∨ s.dst.toNat + formatWrites (formatOf i) s ≤ a → t.dmem.read a = s.dmem.read a

/-- R26 to R29, R350: no command changes CMD, SRC, DST, LEN or ARG, nor the platform's parameters or the run. -/
def Obligations.CommandsKeepTheOperandRegisters : Prop :=
  ∀ (i : Instr) (s t : State), exec i s = next t →
    t.cmd = s.cmd ∧ t.src = s.src ∧ t.dst = s.dst ∧ t.len = s.len ∧ t.arg = s.arg ∧
    t.params = s.params ∧ t.actions = s.actions ∧ t.reads = s.reads

/-- R32: RESULT is unchanged by every command but the queries, the byte functions and EAX.CHKTAG, and by these when they
raise. -/
def Obligations.ResultIsKeptByOtherCommands : Prop :=
  ∀ (i : Instr) (s t : State), exec i s = next t →
    writesResult i = false ∨ codeIsError t.code = true → t.result = s.result

/-- R35: a command changes no context but its own unit's. -/
def Obligations.CommandsKeepOtherUnits : Prop :=
  ∀ (i : Instr) (s t : State), exec i s = next t →
    (∀ v, ownerOf i ≠ .aes v → ctxOf v t = ctxOf v s) ∧
    (ownerOf i ≠ .eax → t.eax = s.eax) ∧
    (ownerOf i ≠ .xts → t.xts = s.xts)

/-- R155: a primitive command neither reads nor writes a context (nor does NOP): with other contexts in place it does the
same, and leaves them in place. R35, R318: a command of a unit with a context depends on no other unit's context. -/
def Obligations.CommandsUseNoOtherContext : Prop :=
  ∀ (i : Instr) (s u t : State), exec i s = next t →
    (ownerOf i = .none → exec i { s with ctx := u.ctx, eax := u.eax, xts := u.xts } =
      next { t with ctx := u.ctx, eax := u.eax, xts := u.xts }) ∧
    ((∀ v, ownerOf i = .aes v → ctxOf v u = ctxOf v s) → (ownerOf i = .eax → u.eax = s.eax) →
      (ownerOf i = .xts → u.xts = s.xts) →
      ∃ t', exec i { s with ctx := u.ctx, eax := u.eax, xts := u.xts } = next t' ∧
        t'.dmem = t.dmem ∧ t'.result = t.result ∧ t'.code = t.code ∧
        (∀ v, ownerOf i = .aes v → ctxOf v t' = ctxOf v t) ∧
        (ownerOf i = .eax → t'.eax = t.eax) ∧
        (ownerOf i = .xts → t'.xts = t.xts))

/-- R88, last sentence: a register, or a bit of ARG, that the command's format does not list has no effect on it. -/
def Obligations.UnlistedRegistersHaveNoEffect : Prop :=
  ∀ (i : Instr) (s t : State) (c a b l g : Word), exec i s = next t →
    (readsSrc (formatOf i) = true → a = s.src) → (readsDst (formatOf i) = true → b = s.dst) →
    (readsLen (formatOf i) = true → l = s.len) → g &&& argMask (formatOf i) = s.arg &&& argMask (formatOf i) →
    exec i { s with cmd := c, src := a, dst := b, len := l, arg := g } =
      next { t with cmd := c, src := a, dst := b, len := l, arg := g }

/-- R308, R14: a command reports the first check that fails, in the order ERR_ARG, ERR_NOKEY, ERR_PHASE, ERR_LEN,
ERR_RANGE, and then changes nothing but STATUS; when none fails it ends with a code that is no error. -/
def Obligations.ChecksAreMadeInOrder : Prop :=
  ∀ (i : Instr) (s : State),
    (∀ c, firstError i s = some c → exec i s = next { s with code := c, busy := false }) ∧
    (firstError i s = none →
      ∃ t, exec i s = next t ∧ t.busy = false ∧ (t.code = .ok ∨ t.code = .tagMismatch ∧ i = .eaxChktag))

/-! ### System command and primitives -/

/-- R301: NOP sets STATUS.CODE to OK and does nothing else; its word is 0, and 0x100 is reserved. -/
def Obligations.NopOnlyReportsOk : Prop :=
  decode 0x00000000 = .ok .nop ∧ formatOf .nop = .n ∧
  (∀ s : State, exec .nop s = next { s with code := .ok, busy := false }) ∧
  ∀ s : State, issue 0x00000100 s = next { s with cmd := 0x00000100, code := .errOpc, busy := false }

/-- R115, R117, R133, R136: SUBBYTES and ISUBBYTES put each byte of the block at SRC through S or Sinv into DST. -/
def Obligations.SubBytesCommandsSubstituteEachByte : Prop :=
  ∀ s : State, s.dmem.wf = true → inRange s.params s.src.toNat 16 = true → inRange s.params s.dst.toNat 16 = true →
    (∃ t, exec .subbytes s = next t ∧ t.code = .ok ∧
      ∀ k, k < 16 → t.dmem.read (s.dst.toNat + k) = sbox (s.dmem.read (s.src.toNat + k))) ∧
    (∃ t, exec .isubbytes s = next t ∧ t.code = .ok ∧
      ∀ k, k < 16 → t.dmem.read (s.dst.toNat + k) = sboxInv (s.dmem.read (s.src.toNat + k)))

/-- R116, R118, R134, R135, R137, R138: SHIFTROWS rotates row r left by r, ISHIFTROWS right by r; SBSR and ISRSB also
substitute. -/
def Obligations.ShiftRowsCommandsRotateRows : Prop :=
  ∀ s : State, s.dmem.wf = true → inRange s.params s.src.toNat 16 = true → inRange s.params s.dst.toNat 16 = true →
    (∃ t, exec .shiftrows s = next t ∧ t.code = .ok ∧
      ∀ r c, r < 4 → c < 4 →
        t.dmem.read (s.dst.toNat + (r + 4 * c)) = s.dmem.read (s.src.toNat + (r + 4 * ((c + r) % 4)))) ∧
    (∃ t, exec .sbsr s = next t ∧ t.code = .ok ∧
      ∀ r c, r < 4 → c < 4 →
        t.dmem.read (s.dst.toNat + (r + 4 * c)) = sbox (s.dmem.read (s.src.toNat + (r + 4 * ((c + r) % 4))))) ∧
    (∃ t, exec .ishiftrows s = next t ∧ t.code = .ok ∧
      ∀ r c, r < 4 → c < 4 →
        t.dmem.read (s.dst.toNat + (r + 4 * ((c + r) % 4))) = s.dmem.read (s.src.toNat + (r + 4 * c))) ∧
    (∃ t, exec .isrsb s = next t ∧ t.code = .ok ∧
      ∀ r c, r < 4 → c < 4 →
        t.dmem.read (s.dst.toNat + (r + 4 * ((c + r) % 4))) = sboxInv (s.dmem.read (s.src.toNat + (r + 4 * c))))

/-- R119, R120, R139, R140: MIXC and IMIXC multiply each column by the matrix with first row 02 03 01 01, or
0e 0b 0d 09. -/
def Obligations.MixColumnsCommandsMultiplyColumns : Prop :=
  ∀ s : State, s.dmem.wf = true → inRange s.params s.src.toNat 16 = true → inRange s.params s.dst.toNat 16 = true →
    (∃ t, exec .mixc s = next t ∧ t.code = .ok ∧
      ∀ r c, r < 4 → c < 4 →
        let a := fun j => s.dmem.read (s.src.toNat + ((r + j) % 4 + 4 * c))
        t.dmem.read (s.dst.toNat + (r + 4 * c)) = gmul 0x02 (a 0) ^^^ gmul 0x03 (a 1) ^^^ a 2 ^^^ a 3) ∧
    (∃ t, exec .imixc s = next t ∧ t.code = .ok ∧
      ∀ r c, r < 4 → c < 4 →
        let a := fun j => s.dmem.read (s.src.toNat + ((r + j) % 4 + 4 * c))
        t.dmem.read (s.dst.toNat + (r + 4 * c)) =
          gmul 0x0e (a 0) ^^^ gmul 0x0b (a 1) ^^^ gmul 0x0d (a 2) ^^^ gmul 0x09 (a 3))

/-- R141: ARK adds the key block at SRC into the state block at DST; with SRC = DST the block becomes zero. -/
def Obligations.ArkAddsTheKeyBlock : Prop :=
  ∀ s : State, s.dmem.wf = true → inRange s.params s.src.toNat 16 = true → inRange s.params s.dst.toNat 16 = true →
    ∃ t, exec .ark s = next t ∧ t.code = .ok ∧
      (∀ k, k < 16 →
        t.dmem.read (s.dst.toNat + k) = s.dmem.read (s.dst.toNat + k) ^^^ s.dmem.read (s.src.toNat + k)) ∧
      (s.src = s.dst → ∀ k, k < 16 → t.dmem.read (s.dst.toNat + k) = 0)

/-- R142 to R146, R114: SUBB, ISUBB, XTIME and GMUL report the byte in RESULT, zero-extended, and change nothing else but
STATUS; so does RCON for i = 1 … 10, with the values of R114, and it raises ERR_ARG for another index. -/
def Obligations.ByteCommandsReportTheByte : Prop :=
  ∀ s : State,
    exec .subb s = next { s with result := (sbox (argA s)).setWidth 32, code := .ok, busy := false } ∧
    exec .isubb s = next { s with result := (sboxInv (argA s)).setWidth 32, code := .ok, busy := false } ∧
    exec .xtime s = next { s with result := (xtime (argA s)).setWidth 32, code := .ok, busy := false } ∧
    exec .gmul s = next { s with result := (gmul (argA s) (argB s)).setWidth 32, code := .ok, busy := false } ∧
    (∀ n, n < 10 → (argA s).toNat = n + 1 →
      exec .rcon s = next { s with
        result := [0x01, 0x02, 0x04, 0x08, 0x10, 0x20, 0x40, 0x80, 0x1B, 0x36].getD n 0, code := .ok, busy := false }) ∧
    ((argA s).toNat = 0 ∨ 10 < (argA s).toNat → exec .rcon s = next { s with code := .errArg, busy := false })

/-- R110 to R113: multiplication in GF(2^8) is commutative and associative, distributes over addition, has identity 0x01
and absorbing element 0x00; the S-box table is the affine map of the field inverse, and the other table undoes it. -/
def Obligations.FieldAndTablesMeetTheirDefinitions : Prop :=
  (∀ a b, gmul a b = gmul b a) ∧ (∀ a b c, gmul (gmul a b) c = gmul a (gmul b c)) ∧
  (∀ a b c, gmul a (b ^^^ c) = gmul a b ^^^ gmul a c) ∧
  (∀ a, gmul a 0x01 = a) ∧ (∀ a, gmul a 0x00 = 0x00) ∧ gmul 0x57 0x83 = 0xC1 ∧ gmul 0x57 0x13 = 0xFE ∧
  (∀ a b, a ≠ 0 → (gmul a b = 0x01 ↔ b = ginv a)) ∧ ginv 0x00 = 0x00 ∧
  ∀ a, sbox a = affine (ginv a) ∧ sboxInv (sbox a) = a ∧ sbox (sboxInv a) = a

/-- R132: the laws of the round transformations. -/
def Obligations.RoundTransformationLaws : Prop :=
  (∀ B, invShiftRows (shiftRows B) = B) ∧ (∀ B, invSubBytes (subBytes B) = B) ∧
  (∀ B, invSubBytes (invShiftRows (shiftRows (subBytes B))) = B) ∧
  (∀ B, invMixColumns (mixColumns B) = B) ∧
  (∀ B K, mixColumns (xorBlock B K) = xorBlock (mixColumns B) (mixColumns K)) ∧
  (∀ a, sbox a ≠ a ∧ sbox a ≠ a ^^^ 0xFF) ∧ (∀ w, subWord (rotWord w) = rotWord (subWord w))

/-- R122, R123, R147, R148: KCORE and SUBWORD on the four bytes of the word at SRC. -/
def Obligations.WordCommandsSubstituteTheWord : Prop :=
  ∀ s : State, s.dmem.wf = true → inRange s.params s.src.toNat 4 = true → inRange s.params s.dst.toNat 4 = true →
    (∀ i, 1 ≤ i → i ≤ 10 → (argA s).toNat = i →
      ∃ t, exec .kcore s = next t ∧ t.code = .ok ∧
        t.dmem.read s.dst.toNat = sbox (s.dmem.read (s.src.toNat + 1)) ^^^ rcon i ∧
        t.dmem.read (s.dst.toNat + 1) = sbox (s.dmem.read (s.src.toNat + 2)) ∧
        t.dmem.read (s.dst.toNat + 2) = sbox (s.dmem.read (s.src.toNat + 3)) ∧
        t.dmem.read (s.dst.toNat + 3) = sbox (s.dmem.read s.src.toNat)) ∧
    (∃ t, exec .subword s = next t ∧ t.code = .ok ∧
      ∀ k, k < 4 → t.dmem.read (s.dst.toNat + k) = sbox (s.dmem.read (s.src.toNat + k)))

/-- R124, R149, R150, R151: KSTEP128, KSTEP192 and KSTEP256 write the next window, word by word as R124 gives it. -/
def Obligations.ExpansionStepCommandsWriteTheNextWindow : Prop :=
  ∀ (nk : Nat) (cmd : Instr), (cmd, nk) ∈ [(Instr.kstep128, 4), (.kstep192, 6), (.kstep256, 8)] →
    ∀ (s : State) (i : Nat), s.dmem.wf = true → 1 ≤ i → i ≤ 10 → (argA s).toNat = i →
      inRange s.params s.src.toNat (4 * nk) = true → inRange s.params s.dst.toNat (4 * nk) = true →
      let w := fun j => quadOfBytes (memRead s.dmem (s.src.toNat + 4 * j) 4)
      ∃ t, exec cmd s = next t ∧ t.code = .ok ∧
        let n := fun j => quadOfBytes (memRead t.dmem (s.dst.toNat + 4 * j) 4)
        n 0 = xorQuad (w 0) (keyCore (w (nk - 1)) i) ∧
        ∀ j, 1 ≤ j → j < nk → n j = xorQuad (w j) (if nk = 8 ∧ j = 4 then subWord (n 3) else n (j - 1))

/-- R125, R152, R153, R154: IKSTEP128, IKSTEP192 and IKSTEP256 write a window that the expansion step of the same index
takes back to the window at SRC. -/
def Obligations.ReverseStepCommandsWriteThePreviousWindow : Prop :=
  ∀ (nk : Nat) (cmd : Instr), (cmd, nk) ∈ [(Instr.ikstep128, 4), (.ikstep192, 6), (.ikstep256, 8)] →
    ∀ (s : State) (i : Nat), s.dmem.wf = true → 1 ≤ i → i ≤ 10 → (argA s).toNat = i →
      inRange s.params s.src.toNat (4 * nk) = true → inRange s.params s.dst.toNat (4 * nk) = true →
      ∃ t, exec cmd s = next t ∧ t.code = .ok ∧
        kStep (words (memRead t.dmem s.dst.toNat (4 * nk))) i = words (memRead s.dmem s.src.toNat (4 * nk))

/-- R126: the reverse step and the expansion step of one index undo each other, on windows of 4, 6 and 8 words. -/
def Obligations.KeyStepsUndoEachOther : Prop :=
  ∀ (W : List Quad) (i : Nat), W.length = 4 ∨ W.length = 6 ∨ W.length = 8 → 1 ≤ i → i ≤ 10 →
    ikStep (kStep W i) i = W ∧ kStep (ikStep W i) i = W

/-! ### AES variants -/

/-- R162, R37, R38: what AesSetup stores, for each tier; every other part of the context is zero. -/
def Obligations.SetupStoresTheScheduleOfTheTier : Prop :=
  ∀ (v : Variant) (K : List Quad), K.length = keyWords v →
    let c := aesSetup v K
    let rk := roundKey K
    let nr := rounds v
    c.keyed = true ∧
    (tier v = .full →
      (∀ r, (h : r < 15) → c.ek[r] = if r ≤ nr then rk r else Block.zero) ∧
      (∀ j, (h : j < 15) → c.dk[j] =
        if j = 0 then rk nr else if j < nr then invMixColumns (rk (nr - j)) else if j = nr then rk 0 else Block.zero) ∧
      c.k0 = AesCtx.cleared.k0 ∧ c.kf = AesCtx.cleared.kf) ∧
    (tier v = .tiny ∨ tier v = .small →
      firstWindow c v = K ∧ (∀ j, (h : j < 8) → keyWords v ≤ j → c.k0[j] = Quad.zero) ∧
      c.ek = AesCtx.cleared.ek ∧ c.dk = AesCtx.cleared.dk) ∧
    (tier v = .tiny → c.kf = AesCtx.cleared.kf) ∧
    (tier v = .small →
      finalWindow c v = wnd K (windowSteps v) ∧ blockAtWord (finalWindow c v) 0 = rk nr ∧
      (∀ j, (h : j < 8) → keyWords v ≤ j → c.kf[j] = Quad.zero))

/-- R172, R178, R184, R190, R196, R202, R208: AES<v>.SETKEY with LEN = KB(v) and the key in DMEM keys `ctx[v]` and
changes nothing else but STATUS. -/
def Obligations.SetkeyKeysTheContext : Prop :=
  ∀ (v : Variant) (s : State), s.len.toNat = keyBytes v → inRange s.params s.src.toNat (keyBytes v) = true →
    exec (setkeyOf v) s = next { s with
      ctx := s.ctx.set (ctxIndex v) (aesSetup v (words (memRead s.dmem s.src.toNat (keyBytes v))))
      code := .ok, busy := false }

/-- R173, R174, R179, R180, R185, R186, R191, R192, R197, R198, R203, R204, R209, R210: AES<v>.ENC and AES<v>.DEC with
a key and both ranges in DMEM write the transformed block and change nothing else but STATUS. -/
def Obligations.EncAndDecWriteTheBlock : Prop :=
  ∀ (v : Variant) (s : State), (ctxOf v s).keyed = true →
    inRange s.params s.src.toNat 16 = true → inRange s.params s.dst.toNat 16 = true →
    let P := blockOfBytes (memRead s.dmem s.src.toNat 16)
    exec (encOf v) s = next { s with
      dmem := memWrite s.dmem s.dst.toNat (blockBytes (aesEnc (ctxOf v s) v P)), code := .ok, busy := false } ∧
    exec (decOf v) s = next { s with
      dmem := memWrite s.dmem s.dst.toNat (blockBytes (aesDec (ctxOf v s) v P)), code := .ok, busy := false }

/-- R175 to R177 and their fellows of every variant: CLEAR clears `ctx[v]`, KEYSIZE reports KB(v), BLOCKSIZE reports 16. -/
def Obligations.ClearAndQueriesOfEveryVariant : Prop :=
  ∀ (v : Variant) (s : State),
    exec (clearOf v) s = next { s with ctx := s.ctx.set (ctxIndex v) AesCtx.cleared, code := .ok, busy := false } ∧
    exec (keysizeOf v) s = next { s with
      result := match v with
        | .full128 | .tiny128 | .small128 => 16
        | .full192 => 24
        | .full256 | .tiny256 | .small256 => 32
      code := .ok, busy := false } ∧
    exec (blocksizeOf v) s = next { s with result := 16, code := .ok, busy := false }

/-- R170, and with it R39, R166, R167, R168: every variant computes the cipher of its key, so variants of one key size
agree; decryption undoes encryption, and it is the inverse cipher. -/
def Obligations.VariantsComputeTheSameCipher : Prop :=
  ∀ (v v' : Variant) (K : List Quad) (B : Block), K.length = keyWords v → keyBytes v = keyBytes v' →
    aesEnc (aesSetup v K) v B = cipher (roundKeys K (rounds v)) (rounds v) B ∧
    aesEnc (aesSetup v K) v B = aesEnc (aesSetup v' K) v' B ∧
    aesDec (aesSetup v K) v (aesEnc (aesSetup v K) v B) = B ∧
    aesDec (aesSetup v K) v B = invCipher (roundKeys K (rounds v)) (rounds v) B

/-! ### EAX -/

/-- R240, R233: EAX.SETKEY with an accepted ARG.V, LEN = KB(v) and the key in DMEM leaves the keyed, empty engine. -/
def Obligations.EaxSetkeyKeysTheEngine : Prop :=
  ∀ (s : State) (v : Variant), variantOfCode (argV s) = some v → s.len.toNat = keyBytes v →
    inRange s.params s.src.toNat s.len.toNat = true →
    let c := aesSetup v (words (memRead s.dmem s.src.toNat s.len.toNat))
    let L := aesEnc c v Block.zero
    exec .eaxSetkey s = next { s with
      eax := { v := v, ciph := c, ph := .noIv, ctr := Block.zero, stream := Block.zero, posn := 0
               tag := Block.zero, hash := Block.zero
               mac := { k1 := dblBe L, k2 := dblBe (dblBe L), acc := Block.zero, buf := Block.zero, blen := 0 } }
      code := .ok, busy := false }

/-- R238: the MAC of the engine is OMAC, that is CMAC of the tag block and the message, however long the message is and
however it is split. -/
def Obligations.MacIsOmac : Prop :=
  ∀ (e : Eax) (t : Byte) (M X Y : List Byte), SubkeysDerived e →
    macValue (macAbsorbAll (macInit t e) M) = omac e t M ∧
    omac e t M = cmac (eaxCipher e) (blockBytes (tagBlock t) ++ M) ∧
    macAbsorbAll e (X ++ Y) = macAbsorbAll (macAbsorbAll e X) Y

/-- R241: EAX.SETIV in any keyed phase, with the nonce in DMEM, makes OMAC^0 of the nonce the counter and the tag, and
opens the associated-data MAC. -/
def Obligations.EaxSetivStartsASession : Prop :=
  ∀ s : State, s.eax.ph ≠ .noKey → SubkeysDerived s.eax → inRange s.params s.src.toNat s.len.toNat = true →
    let N := omac s.eax 0 (memRead s.dmem s.src.toNat s.len.toNat)
    exec .eaxSetiv s = next { s with
      eax := { s.eax with
        ctr := N, tag := N, stream := Block.zero, posn := 16, hash := Block.zero, ph := .auth
        mac := { s.eax.mac with acc := Block.zero, buf := tagBlock 1, blen := 16 } }
      code := .ok, busy := false }

/-- R242: EAX.AAD in phase AUTH, with the data in DMEM, absorbs the bytes and changes nothing else but STATUS; with
LEN = 0 it changes nothing else at all. -/
def Obligations.EaxAadAbsorbsTheData : Prop :=
  ∀ s : State, s.eax.ph = .auth → inRange s.params s.src.toNat s.len.toNat = true →
    exec .eaxAad s = next { s with
      eax := macAbsorbAll s.eax (memRead s.dmem s.src.toNat s.len.toNat), code := .ok, busy := false } ∧
    (s.len = 0 → exec .eaxAad s = next { s with code := .ok, busy := false })

/-- R243 to R245: EAX.ENC and EAX.DEC in AUTH or CIPHER, with both ranges in DMEM, close the associated-data MAC and
stream LEN bytes, each read, written and absorbed before the next, whatever the overlap of the ranges. -/
def Obligations.EaxStreamCommandsComplete : Prop :=
  ∀ s : State, s.eax.ph = .auth ∨ s.eax.ph = .cipher →
    inRange s.params s.src.toNat s.len.toNat = true → inRange s.params s.dst.toNat s.len.toNat = true →
    let u := { s with eax := closeAuth s.eax }
    exec .eaxEnc s = next { streamBytes false s.len.toNat 0 u with code := .ok, busy := false } ∧
    exec .eaxDec s = next { streamBytes true s.len.toNat 0 u with code := .ok, busy := false } ∧
    ∀ d n i (r : State), streamBytes d (n + 1) i r =
      let x := r.dmem.read (r.src.toNat + i)
      let y := x ^^^ (ksNext r.eax).1
      streamBytes d n (i + 1) { r with
        dmem := r.dmem.write (r.dst.toNat + i) y
        eax := macAbsorb (ksNext r.eax).2 (if d then x else y) }

/-- R68, R69, R244, R245: when the two ranges are the same or disjoint, EAX.ENC and EAX.DEC write the function of the
input bytes that the rules give, so in-place use is safe. -/
def Obligations.EaxStreamIsAFunctionOfTheInput : Prop :=
  ∀ s : State, s.dmem.wf = true → s.eax.ph = .auth ∨ s.eax.ph = .cipher →
    inRange s.params s.src.toNat s.len.toNat = true → inRange s.params s.dst.toNat s.len.toNat = true →
    sameOrDisjoint s.src.toNat s.dst.toNat s.len.toNat = true →
    let X := memRead s.dmem s.src.toNat s.len.toNat
    (∃ t, exec .eaxEnc s = next t ∧ t.code = .ok ∧
      memRead t.dmem s.dst.toNat s.len.toNat = (streamRef false (closeAuth s.eax) X).1 ∧
      t.eax = (streamRef false (closeAuth s.eax) X).2) ∧
    (∃ t, exec .eaxDec s = next t ∧ t.code = .ok ∧
      memRead t.dmem s.dst.toNat s.len.toNat = (streamRef true (closeAuth s.eax) X).1 ∧
      t.eax = (streamRef true (closeAuth s.eax) X).2)

/-- R255, R244, R245: a message split over two commands gives the bytes and the context of one command; and decryption
of the encryption gives the message back and leaves the same context, so the tag is the same. -/
def Obligations.EaxStreamLaws : Prop :=
  ∀ (e : Eax) (d : Bool) (X Y : List Byte),
    streamRef d e (X ++ Y) =
      ((streamRef d e X).1 ++ (streamRef d (streamRef d e X).2 Y).1, (streamRef d (streamRef d e X).2 Y).2) ∧
    streamRef true e (streamRef false e X).1 = (X, (streamRef false e X).2)

/-- R239, R236: from the start of a session, keystream block j is the cipher of the counter plus j, modulo 2^128. -/
def Obligations.KeystreamEncryptsTheCounter : Prop :=
  ∀ (e : Eax) (n j : Nat), e.posn = 16 → j < n →
    (keystream n e).getD j 0 =
      blockByte (eaxCipher e (blockOfBE (blockToBE e.ctr + BitVec.ofNat 128 (j / 16)))) (j % 16)

/-- R248: after SETIV, associated data, a stream and finalisation the tag is N xor H xor C, the OMACs of the nonce, the
associated data and the ciphertext. -/
def Obligations.SessionTagIsTheXorOfTheThreeMacs : Prop :=
  ∀ (e : Eax) (d : Bool) (nonce A X : List Byte), SubkeysDerived e →
    let r := streamRef d (closeAuth (macAbsorbAll (eaxStart nonce e) A)) X
    (finalize r.2).ph = .done ∧
    (finalize r.2).tag =
      xorBlock (xorBlock (omac e 0 nonce) (omac e 1 A)) (omac e 2 (ciphertextOf d X r.1))

/-- R246, R247: EAX.TAG with a nonce set and its range in DMEM finalises and writes the first min(LEN, 16) bytes of the
tag; in DONE the engine keeps the tag it has. -/
def Obligations.EaxTagWritesTheTag : Prop :=
  ∀ s : State, s.eax.ph ≠ .noKey → s.eax.ph ≠ .noIv → inRange s.params s.dst.toNat (min s.len.toNat 16) = true →
    exec .eaxTag s = next { s with
      dmem := memWrite s.dmem s.dst.toNat ((blockBytes (finalize s.eax).tag).take (min s.len.toNat 16))
      eax := finalize s.eax, code := .ok, busy := false } ∧
    (finalize s.eax).ph = .done ∧ (s.eax.ph = .done → finalize s.eax = s.eax)

/-- R249: EAX.CHKTAG finalises and reports OK with RESULT = 1 exactly when 1 ≤ LEN ≤ 16 and the first LEN bytes of the
tag stand at SRC; else TAG_MISMATCH with RESULT = 0. -/
def Obligations.EaxChktagComparesTheTag : Prop :=
  ∀ s : State, s.eax.ph ≠ .noKey → s.eax.ph ≠ .noIv → inRange s.params s.src.toNat (min s.len.toNat 16) = true →
    ((1 ≤ s.len.toNat ∧ s.len.toNat ≤ 16 ∧
        memRead s.dmem s.src.toNat s.len.toNat = (blockBytes (finalize s.eax).tag).take s.len.toNat) →
      exec .eaxChktag s = next { s with eax := finalize s.eax, result := 1, code := .ok, busy := false }) ∧
    (¬(1 ≤ s.len.toNat ∧ s.len.toNat ≤ 16 ∧
        memRead s.dmem s.src.toNat s.len.toNat = (blockBytes (finalize s.eax).tag).take s.len.toNat) →
      exec .eaxChktag s = next { s with eax := finalize s.eax, result := 0, code := .tagMismatch, busy := false })

/-- R250 to R253: EAX.CLEAR clears the engine; the queries report KB(ARG.V), 16 and 16. -/
def Obligations.EaxClearAndQueries : Prop :=
  ∀ s : State,
    exec .eaxClear s = next { s with eax := Eax.cleared, code := .ok, busy := false } ∧
    (∀ v, variantOfCode (argV s) = some v →
      exec .eaxKeysize s = next { s with result := BitVec.ofNat 32 (keyBytes v), code := .ok, busy := false }) ∧
    ((argV s).toNat = 7 → exec .eaxKeysize s = next { s with code := .errArg, busy := false }) ∧
    exec .eaxIvsize s = next { s with result := 16, code := .ok, busy := false } ∧
    exec .eaxTagsize s = next { s with result := 16, code := .ok, busy := false }

/-! ### XTS -/

/-- R274: XTS.SETKEY with an accepted ARG.V, the exact LEN of the mode and the buffer in DMEM keys the data cipher with
the first half (or the whole key in single-key mode) and the tweak cipher with the second; the sector size is kept and
the tweak is gone. -/
def Obligations.XtsSetkeyKeysTheEngine : Prop :=
  ∀ (s : State) (v : Variant), variantOfCode (argV s) = some v →
    s.len.toNat = (if argM s then keyBytes v else 2 * keyBytes v) →
    inRange s.params s.src.toNat s.len.toNat = true →
    let half := fun i => aesSetup v (words (memRead s.dmem (s.src.toNat + i * keyBytes v) (keyBytes v)))
    exec .xtsSetkey s = next { s with
      xts := { v := v, m := argM s, keyed := true, data := half 0
               twk := if argM s then AesCtx.cleared else half 1
               tw := ⟨0, 0, 0, 0⟩, tweaked := false, sect := s.xts.sect }
      code := .ok, busy := false }

/-- R275, R45: XTS.SETTWEAK with a key, LEN ≤ 16 and the identifier in DMEM stores the cipher of the zero-padded
identifier, byte i of it at bit 8i of the four words in a row. -/
def Obligations.XtsSettweakStoresTheTweak : Prop :=
  ∀ s : State, s.xts.keyed = true → s.len.toNat ≤ 16 → inRange s.params s.src.toNat s.len.toNat = true →
    let id := memRead s.dmem s.src.toNat s.len.toNat ++ List.replicate (16 - s.len.toNat) 0
    let T := aesEnc (if s.xts.m then s.xts.data else s.xts.twk) s.xts.v (blockOfBytes id)
    ∃ tw : Tweak,
      exec .xtsSettweak s = next { s with
        xts := { s.xts with tw := tw, tweaked := true }, code := .ok, busy := false } ∧
      tw.w3 ++ tw.w2 ++ tw.w1 ++ tw.w0 = blockToLE T ∧ unpack tw = T

/-- R276, R277: XTS.SETSECT stores a positive multiple of 16 up to SECTOR_MAX and refuses any other LEN; XTS.GETSECT
reports what is stored. -/
def Obligations.XtsSectorSizeCommands : Prop :=
  ∀ s : State,
    ((0 < s.len.toNat ∧ s.len.toNat % 16 = 0 ∧ s.len.toNat ≤ s.params.sectorMax) →
      exec .xtsSetsect s = next { s with xts := { s.xts with sect := s.len }, code := .ok, busy := false }) ∧
    (¬(0 < s.len.toNat ∧ s.len.toNat % 16 = 0 ∧ s.len.toNat ≤ s.params.sectorMax) →
      exec .xtsSetsect s = next { s with code := .errLen, busy := false }) ∧
    exec .xtsGetsect s = next { s with result := s.xts.sect, code := .ok, busy := false }

/-- R278, R279: XTS.ENCSECT and XTS.DECSECT with a key, a tweak and both ranges in DMEM process the sector block by
block, each unit read before it is written, whatever the overlap; the context is not changed. -/
def Obligations.XtsSectorCommandsComplete : Prop :=
  ∀ s : State, s.xts.keyed = true → s.xts.tweaked = true →
    inRange s.params s.src.toNat s.xts.sect.toNat = true → inRange s.params s.dst.toNat s.xts.sect.toNat = true →
    let go := fun f => sectorBlocks f (s.xts.sect.toNat / 16) 0 (unpack s.xts.tw) s
    exec .xtsEncsect s = next { s with dmem := (go (xtsEnc s.xts)).dmem, code := .ok, busy := false } ∧
    exec .xtsDecsect s = next { s with dmem := (go (xtsDec s.xts)).dmem, code := .ok, busy := false } ∧
    ∀ f n k T (r : State), sectorBlocks f (n + 1) k T r =
      sectorBlocks f n (k + 1) (dblLe T) { r with
        dmem := memWrite r.dmem (r.dst.toNat + 16 * k)
          (blockBytes (f T (blockOfBytes (memRead r.dmem (r.src.toNat + 16 * k) 16)))) }

/-- R69, R273, R278, R279: when the two ranges are the same or disjoint, block k of the sector at DST is block k at SRC
under the tweak doubled k times. -/
def Obligations.XtsSectorBlocksUseTheDoubledTweak : Prop :=
  ∀ (s : State) (k : Nat), s.dmem.wf = true → s.xts.keyed = true → s.xts.tweaked = true →
    inRange s.params s.src.toNat s.xts.sect.toNat = true → inRange s.params s.dst.toNat s.xts.sect.toNat = true →
    sameOrDisjoint s.src.toNat s.dst.toNat s.xts.sect.toNat = true → 16 * (k + 1) ≤ s.xts.sect.toNat →
    let T := Nat.iterate dblLe k (unpack s.xts.tw)
    let P := blockOfBytes (memRead s.dmem (s.src.toNat + 16 * k) 16)
    (∃ t, exec .xtsEncsect s = next t ∧
      memRead t.dmem (s.dst.toNat + 16 * k) 16 =
        blockBytes (xorBlock (aesEnc s.xts.data s.xts.v (xorBlock P T)) T)) ∧
    (∃ t, exec .xtsDecsect s = next t ∧
      memRead t.dmem (s.dst.toNat + 16 * k) 16 =
        blockBytes (xorBlock (aesDec s.xts.data s.xts.v (xorBlock P T)) T))

/-- R273: a block goes through the data cipher between two additions of the tweak; and under one tweak, decryption undoes
encryption, for a data cipher that SETKEY made. -/
def Obligations.XtsDecryptionUndoesEncryption : Prop :=
  ∀ (x : Xts) (K : List Quad) (t P : Block), K.length = keyWords x.v → x.data = aesSetup x.v K →
    xtsEnc x t P = xorBlock (aesEnc x.data x.v (xorBlock P t)) t ∧
    xtsDec x t P = xorBlock (aesDec x.data x.v (xorBlock P t)) t ∧
    xtsDec x t (xtsEnc x t P) = P

/-- R272, R45: the tweak is doubled as a little-endian integer; the doubling of the four words gives the same value. -/
def Obligations.TweakDoublingFormsAgree : Prop :=
  ∀ T : Block,
    blockToLE (dblLe T) = (blockToLE T <<< 1) ^^^ (if (blockToLE T).getLsbD 127 then 0x87#128 else 0#128) ∧
    unpack (dblTweak (pack T)) = dblLe T ∧ unpack (pack T) = T

/-- R280 to R282: XTS.CLEAR clears the engine but for the sector size; the queries report the key buffer length of
ARG.V and ARG.M, and 16. -/
def Obligations.XtsClearAndQueries : Prop :=
  ∀ s : State,
    exec .xtsClear s = next { s with xts := Xts.cleared s.xts.sect, code := .ok, busy := false } ∧
    (∀ v, variantOfCode (argV s) = some v →
      exec .xtsKeysize s = next { s with
        result := BitVec.ofNat 32 (if argM s then keyBytes v else 2 * keyBytes v), code := .ok, busy := false }) ∧
    ((argV s).toNat = 7 → exec .xtsKeysize s = next { s with code := .errArg, busy := false }) ∧
    exec .xtsTweaksize s = next { s with result := 16, code := .ok, busy := false }

/-! ### Invariants -/

/-- R61, R66: a step keeps DMEM canonical and inside DMEM_SIZE. -/
def Obligations.StepKeepsDmemInRange : Prop := ∀ s t : State, DmemInv s → step s = next t → DmemInv t

/-- R36 to R38, R48: a step keeps every AES context cleared or made by AesSetup of some key. -/
def Obligations.StepKeepsContextsRegenerable : Prop := ∀ s t : State, CtxInv s → step s = next t → CtxInv t

/-- R42, R233, R235, R237: a step keeps the invariant of the EAX context. -/
def Obligations.StepKeepsTheEaxInvariant : Prop := ∀ s t : State, EaxInv s → step s = next t → EaxInv t

/-- R46: a step keeps the invariant of the XTS context. -/
def Obligations.StepKeepsTheXtsInvariant : Prop := ∀ s t : State, XtsInv s → step s = next t → XtsInv t

/-- R31: a step from BUSY = 0 ends with BUSY = 0, and no step changes the platform's parameters (R9). -/
def Obligations.StepEndsWithBusyClear : Prop :=
  ∀ s t : State, step s = next t → (s.busy = false → t.busy = false) ∧ t.params = s.params

/-- R49: the invariants hold after reset. The parameters are the platform's, of which R9 gives the bounds. -/
def Obligations.ResetMeetsTheInvariants : Prop :=
  DmemInv State.reset ∧ CtxInv State.reset ∧ EaxInv State.reset ∧ XtsInv State.reset ∧ State.reset.busy = false
end

