-- ==== Sys2Proof/Laws/Bytes.lean ====
section
/-! SUPPORT. Byte sequences, words and blocks: conversions undo each other, lengths, and exclusive-or. -/

namespace Sys2Proof.Machine

@[simp] theorem quadBytes_length (w : Quad) : (quadBytes w).length = 4 := rfl

@[simp] theorem blockBytes_length (b : Block) : (blockBytes b).length = 16 := rfl

@[simp] theorem blockOfBytes_blockBytes (b : Block) : blockOfBytes (blockBytes b) = b := rfl

@[simp] theorem quadOfBytes_quadBytes (w : Quad) : quadOfBytes (quadBytes w) = w := rfl

theorem words_quadBytes_append (w : Quad) (l : List Byte) : words (quadBytes w ++ l) = w :: words l := rfl

@[simp] theorem words_wordsBytes : ∀ ws : List Quad, words (wordsBytes ws) = ws
  | [] => rfl
  | w :: ws => by
    have := words_wordsBytes ws
    simp only [wordsBytes, List.flatMap_cons] at this ⊢
    rw [words_quadBytes_append, this]

@[simp] theorem wordsBytes_length (ws : List Quad) : (wordsBytes ws).length = 4 * ws.length := by
  induction ws with
  | nil => rfl
  | cons w ws ih =>
    simp only [wordsBytes, List.flatMap_cons, List.length_append, quadBytes_length, List.length_cons] at ih ⊢
    omega

theorem words_length : ∀ (l : List Byte) (n : Nat), l.length = 4 * n → (words l).length = n
  | l, 0, h => by
    have : l = [] := List.eq_nil_of_length_eq_zero (by omega)
    rw [this]; rfl
  | l, n + 1, h => by
    match l, h with
    | a :: b :: c :: d :: rest, h =>
      rw [words, List.length_cons, words_length rest n (by simp only [List.length_cons] at h; omega)]

@[simp] theorem xorQuad_self_left (a b : Quad) : xorQuad a (xorQuad a b) = b := by
  simp [xorQuad]

@[simp] theorem xorQuad_self_right (a b : Quad) : xorQuad (xorQuad a b) b = a := by
  simp [xorQuad]

@[simp] theorem xorBlock_self_right (a b : Block) : xorBlock (xorBlock a b) b = a := by
  simp [xorBlock]

theorem xorBlock_self (a : Block) : xorBlock a a = Block.zero := by
  simp [xorBlock, xorQuad, Block.zero, Quad.zero]

theorem xorBlock_comm (a b : Block) : xorBlock a b = xorBlock b a := by
  simp [xorBlock, xorQuad, BitVec.xor_comm]

theorem expandTail_length (nk : Nat) : ∀ (j : Nat) (prev : Quad) (ws : List Quad),
    (expandTail nk j prev ws).length = ws.length
  | _, _, [] => rfl
  | j, prev, w :: ws => by
    simp only [expandTail, List.length_cons]
    rw [expandTail_length nk (j + 1) _ ws]

theorem reduceTail_length (nk : Nat) : ∀ (j : Nat) (prev : Quad) (ws : List Quad),
    (reduceTail nk j prev ws).length = ws.length
  | _, _, [] => rfl
  | j, prev, w :: ws => by
    simp only [reduceTail, List.length_cons]
    rw [reduceTail_length nk (j + 1) _ ws]

/-- A step keeps the window's length (R124). -/
@[simp] theorem kStep_length (W : List Quad) (i : Nat) : (kStep W i).length = W.length := by
  cases W with
  | nil => rfl
  | cons w ws => simp only [kStep, List.length_cons, expandTail_length]

/-- A reverse step keeps the window's length (R125). -/
@[simp] theorem ikStep_length (W : List Quad) (i : Nat) : (ikStep W i).length = W.length := by
  cases W with
  | nil => rfl
  | cons w ws => simp only [ikStep, List.length_cons, reduceTail_length]

@[simp] theorem wnd_length (K : List Quad) : ∀ j, (wnd K j).length = K.length
  | 0 => rfl
  | j + 1 => by rw [wnd, kStep_length, wnd_length K j]

end Sys2Proof.Machine
end

