-- ==== Sys2Proof/Laws/Memory.lean ====
section
/-! SUPPORT. DMEM: a read after a write, and the canonical form, which every memory operation keeps. -/

namespace Sys2Proof.Machine

theorem Memory.read_cons (a b : Nat) (v : Byte) (m : Memory) (h : Memory.read m a = unlistedByte) :
    Memory.read (Memory.cons a v m) b = if b = a then v else Memory.read m b := by
  unfold Memory.cons
  split
  · next hv =>
    split
    · next hb => rw [hb, h, hv]
    · rfl
  · simp only [Memory.read, eq_comm]

/-- Below the least listed address every byte reads as unlisted. -/
theorem Memory.read_below : ∀ (m : Memory) (lo a : Nat), Memory.wfFrom lo m = true → a < lo →
    Memory.read m a = unlistedByte
  | [], _, _, _, _ => rfl
  | (k, v) :: m, lo, a, h, ha => by
    simp only [Memory.wfFrom, Bool.and_eq_true, decide_eq_true_eq] at h
    have hk : k ≠ a := by omega
    rw [Memory.read, if_neg hk]
    exact Memory.read_below m (k + 1) a h.2 (by omega)

theorem Memory.wfFrom_mono : ∀ (m : Memory) (lo lo' : Nat), lo' ≤ lo → Memory.wfFrom lo m = true →
    Memory.wfFrom lo' m = true
  | [], _, _, _, _ => rfl
  | (k, v) :: m, lo, lo', hl, h => by
    simp only [Memory.wfFrom, Bool.and_eq_true, decide_eq_true_eq] at h ⊢
    exact ⟨⟨by omega, h.1.2⟩, h.2⟩

theorem Memory.wfFrom_cons (a lo : Nat) (v : Byte) (m : Memory) (hlo : lo ≤ a) (h : Memory.wfFrom (a + 1) m = true) :
    Memory.wfFrom lo (Memory.cons a v m) = true := by
  unfold Memory.cons
  split
  · exact Memory.wfFrom_mono m (a + 1) lo (by omega) h
  · next hv => simp [Memory.wfFrom, hlo, hv, h]

theorem Memory.wfFrom_write : ∀ (m : Memory) (lo a : Nat) (v : Byte), lo ≤ a → Memory.wfFrom lo m = true →
    Memory.wfFrom lo (Memory.write m a v) = true
  | [], lo, a, v, hlo, _ => Memory.wfFrom_cons a lo v [] hlo rfl
  | (k, w) :: m, lo, a, v, hlo, h => by
    have h0 := h
    simp only [Memory.wfFrom, Bool.and_eq_true, decide_eq_true_eq] at h
    rw [Memory.write]
    split
    · next hak =>
      refine Memory.wfFrom_cons a lo v _ hlo ?_
      simp only [Memory.wfFrom, Bool.and_eq_true, decide_eq_true_eq]
      exact ⟨⟨hak, h.1.2⟩, h.2⟩
    · split
      · next hak => exact Memory.wfFrom_cons a lo v m hlo (hak ▸ h.2)
      · simp only [Memory.wfFrom, Bool.and_eq_true, decide_eq_true_eq]
        exact ⟨h.1, Memory.wfFrom_write m (k + 1) a v (by omega) h.2⟩

/-- A write keeps the canonical form. -/
theorem Memory.wf_write (m : Memory) (a : Nat) (v : Byte) (h : m.wf = true) : (m.write a v).wf = true :=
  Memory.wfFrom_write m 0 a v (Nat.zero_le a) h

theorem Memory.read_write_from : ∀ (m : Memory) (lo a b : Nat) (v : Byte), Memory.wfFrom lo m = true →
    Memory.read (Memory.write m a v) b = if b = a then v else Memory.read m b
  | [], _, a, b, v, _ => Memory.read_cons a b v [] rfl
  | (k, w) :: m, lo, a, b, v, h => by
    have h0 := h
    simp only [Memory.wfFrom, Bool.and_eq_true, decide_eq_true_eq] at h
    rw [Memory.write]
    split
    · next hak =>
      refine Memory.read_cons a b v _ ?_
      rw [Memory.read, if_neg (by omega)]
      exact Memory.read_below m (k + 1) a h.2 (by omega)
    · split
      · next hak =>
        rw [Memory.read_cons a b v m (Memory.read_below m (k + 1) a h.2 (by omega))]
        simp only [Memory.read]
        split
        · rfl
        · rw [if_neg (by omega)]
      · next h1 h2 =>
        simp only [Memory.read]
        rw [Memory.read_write_from m (k + 1) a b v h.2]
        by_cases hb : b = a
        · rw [if_pos hb, if_pos hb, if_neg (by omega)]
        · rw [if_neg hb, if_neg hb]

/-- A read after a write, in a canonical memory: the value written at that address, the old value elsewhere. -/
theorem Memory.read_write (m : Memory) (a b : Nat) (v : Byte) (h : m.wf = true) :
    (m.write a v).read b = if b = a then v else m.read b :=
  Memory.read_write_from m 0 a b v h

/-- Away from the written address a write changes no read, in any memory. -/
theorem Memory.read_cons_ne (a b : Nat) (v : Byte) (m : Memory) (hb : b ≠ a) :
    Memory.read (Memory.cons a v m) b = Memory.read m b := by
  unfold Memory.cons
  split
  · rfl
  · rw [Memory.read, if_neg (Ne.symm hb)]

theorem Memory.read_write_ne : ∀ (m : Memory) (a b : Nat) (v : Byte), b ≠ a →
    Memory.read (Memory.write m a v) b = Memory.read m b
  | [], a, b, v, hb => Memory.read_cons_ne a b v [] hb
  | (k, w) :: m, a, b, v, hb => by
    rw [Memory.write]
    split
    · exact Memory.read_cons_ne a b v _ hb
    · split
      · next hak => rw [Memory.read_cons_ne a b v m hb, Memory.read, if_neg (by omega)]
      · simp only [Memory.read]
        rw [Memory.read_write_ne m a b v hb]

theorem Memory.below_cons (size a : Nat) (v : Byte) (m : Memory) (ha : a < size) (h : m.below size = true) :
    Memory.below size (Memory.cons a v m) = true := by
  unfold Memory.cons
  split
  · exact h
  · simpa [Memory.below, ha] using h

/-- A write to an address that exists keeps every listed address an existing one. -/
theorem Memory.below_write : ∀ (size : Nat) (m : Memory) (a : Nat) (v : Byte), a < size → m.below size = true →
    (m.write a v).below size = true
  | size, [], a, v, ha, _ => Memory.below_cons size a v [] ha rfl
  | size, (k, w) :: m, a, v, ha, h => by
    have hm : Memory.below size m = true := by
      simp only [Memory.below, List.all_cons, Bool.and_eq_true] at h
      exact h.2
    have hk : k < size := by
      simp only [Memory.below, List.all_cons, Bool.and_eq_true, decide_eq_true_eq] at h
      exact h.1
    rw [Memory.write]
    split
    · exact Memory.below_cons size a v _ ha h
    · split
      · exact Memory.below_cons size a v m ha hm
      · have := Memory.below_write size m a v ha hm
        simp only [Memory.below, List.all_cons, Bool.and_eq_true, decide_eq_true_eq]
        exact ⟨hk, this⟩

theorem memRead_length : ∀ (m : Memory) (a n : Nat), (memRead m a n).length = n
  | _, _, 0 => rfl
  | m, a, n + 1 => by rw [memRead, List.length_cons, memRead_length m (a + 1) n]

/-- Byte `i` of `MemRead(a, n)` is `DMEM[a + i]` (R13). -/
theorem memRead_getD : ∀ (m : Memory) (a n i : Nat) (d : Byte), i < n → (memRead m a n).getD i d = m.read (a + i)
  | _, _, 0, _, _, h => absurd h (Nat.not_lt_zero _)
  | _, _, _ + 1, 0, _, _ => rfl
  | m, a, n + 1, i + 1, d, h => by
    rw [memRead, List.getD_cons_succ, memRead_getD m (a + 1) n i d (by omega)]
    congr 1
    omega

/-- `MemWrite` keeps the canonical form. -/
theorem memWrite_wf : ∀ (m : Memory) (a : Nat) (bs : List Byte), m.wf = true → (memWrite m a bs).wf = true
  | _, _, [], h => h
  | m, a, b :: bs, h => memWrite_wf (m.write a b) (a + 1) bs (Memory.wf_write m a b h)

/-- `MemWrite` to addresses that exist lists only addresses that exist. -/
theorem memWrite_below : ∀ (size : Nat) (m : Memory) (a : Nat) (bs : List Byte), a + bs.length ≤ size ∨ bs = [] →
    m.below size = true → (memWrite m a bs).below size = true
  | _, _, _, [], _, h => h
  | size, m, a, b :: bs, hr, h => by
    have hl : a + (bs.length + 1) ≤ size := by simpa using hr
    exact memWrite_below size (m.write a b) (a + 1) bs (Or.inl (by omega))
      (Memory.below_write size m a b (by omega) h)

/-- A byte outside the written range reads as before, in any memory (R13). -/
theorem memWrite_read_outside : ∀ (m : Memory) (a : Nat) (bs : List Byte) (c : Nat), c < a ∨ a + bs.length ≤ c →
    (memWrite m a bs).read c = m.read c
  | _, _, [], _, _ => rfl
  | m, a, b :: bs, c, h => by
    have h' : c < a ∨ a + (bs.length + 1) ≤ c := by simpa using h
    rw [memWrite, memWrite_read_outside (m.write a b) (a + 1) bs c (by omega), Memory.read_write_ne m a c b (by omega)]

/-- A byte inside the written range reads as written, in a canonical memory (R13). -/
theorem memWrite_read_inside : ∀ (m : Memory) (a : Nat) (bs : List Byte) (i : Nat) (d : Byte), m.wf = true →
    i < bs.length → (memWrite m a bs).read (a + i) = bs.getD i d
  | _, _, [], _, _, _, h => absurd h (Nat.not_lt_zero _)
  | m, a, b :: bs, 0, d, hw, _ => by
    rw [memWrite, memWrite_read_outside (m.write a b) (a + 1) bs (a + 0) (by omega), Memory.read_write m a (a + 0) b hw]
    simp
  | m, a, b :: bs, i + 1, d, hw, h => by
    have := memWrite_read_inside (m.write a b) (a + 1) bs i d (Memory.wf_write m a b hw) (by simpa using h)
    rw [memWrite, List.getD_cons_succ, ← this]
    congr 1
    omega

theorem inRange_iff (p : Params) (a n : Nat) : inRange p a n = true ↔ n = 0 ∨ a + n ≤ p.dmemSize := by
  simp [inRange]

theorem rangesOk_pair (p : Params) (a b n k : Nat) :
    rangesOk p [(a, n), (b, k)] = true ↔ inRange p a n = true ∧ inRange p b k = true := by
  simp [rangesOk]

/-- After a reset DMEM is canonical. -/
theorem resetContents_wf (size : Nat) : ∀ (contents : List Host.Cell) (m : Memory), m.wf = true →
    (contents.foldl (fun m c => if c.1 < size then Memory.write m c.1 c.2 else m) m).wf = true
  | [], _, h => h
  | c :: cs, m, h => by
    rw [List.foldl_cons]
    refine resetContents_wf size cs _ ?_
    split
    · exact Memory.wf_write m c.1 c.2 h
    · exact h

/-- After a reset DMEM lists only addresses that exist. -/
theorem resetContents_below (size : Nat) : ∀ (contents : List Host.Cell) (m : Memory), m.below size = true →
    (contents.foldl (fun m c => if c.1 < size then Memory.write m c.1 c.2 else m) m).below size = true
  | [], _, h => h
  | c :: cs, m, h => by
    rw [List.foldl_cons]
    refine resetContents_below size cs _ ?_
    split
    · next hc => exact Memory.below_write size m c.1 c.2 hc h
    · exact h

/-- The memory after reset is canonical. -/
theorem reset_dmem_wf : Memory.wf State.reset.dmem = true := rfl

end Sys2Proof.Machine
end

