-- ==== Sys2Proof/Laws/Ops.lean ====
section
/-! SUPPORT. One lemma per shared operation: everything it can do when it answers a next state. -/

namespace Sys2Proof.Machine

/-- A command of format BLK raises ERR_RANGE or writes the transformed block. -/
theorem blockCommand_next {f : Block → Block} {s t : State} (h : blockCommand f s = .next t) :
    (operandsInRange .blk s = true ∧ t = complete (writeDst (blockBytes (f (blockOfBytes (readSrc 16 s)))) s)) ∨
    (operandsInRange .blk s = false ∧ t = raise .errRange s) := by
  simp only [blockCommand, Host.Outcome.next.injEq] at h
  subst h
  cases hr : operandsInRange .blk s <;> simp

/-- A byte command always completes. -/
theorem byteCommand_next {b : Byte} {s t : State} (h : byteCommand b s = .next t) :
    t = complete (setResult (b.setWidth 32) s) := by
  simpa [byteCommand, eq_comm] using h

/-- A command of format WIN-n raises ERR_ARG or ERR_RANGE, or writes the stepped window. -/
theorem windowCommand_next {n : Nat} {f : List Quad → Nat → List Quad} {s t : State}
    (h : windowCommand n f s = .next t) :
    (roundIndex s = none ∧ t = raise .errArg s) ∨
    (∃ i, roundIndex s = some i ∧ operandsInRange (.win n) s = false ∧ t = raise .errRange s) ∨
    (∃ i, roundIndex s = some i ∧ operandsInRange (.win n) s = true ∧
      t = complete (writeDst (wordsBytes (f (words (readSrc n s)) i)) s)) := by
  simp only [windowCommand, Host.Outcome.next.injEq] at h
  subst h
  cases roundIndex s with
  | none => simp
  | some i => cases operandsInRange (.win n) s <;> simp

/-- AES<v>.SETKEY raises ERR_LEN or ERR_RANGE, or keys its context. -/
theorem setKeyCommand_next {v : Variant} {s t : State} (h : setKeyCommand v s = .next t) :
    (s.len.toNat ≠ keyBytes v ∧ t = raise .errLen s) ∨
    (s.len.toNat = keyBytes v ∧ operandsInRange .key s = false ∧ t = raise .errRange s) ∨
    (s.len.toNat = keyBytes v ∧ operandsInRange .key s = true ∧
      t = complete (setCtx v (aesSetup v (words (readSrc (keyBytes v) s))) s)) := by
  simp only [setKeyCommand, Host.Outcome.next.injEq] at h
  subst h
  by_cases hl : s.len.toNat = keyBytes v
  · cases operandsInRange .key s <;> simp [hl]
  · simp [hl]

/-- AES<v>.ENC and AES<v>.DEC raise ERR_NOKEY or ERR_RANGE, or write the transformed block. -/
theorem cipherCommand_next {f : AesCtx → Variant → Block → Block} {v : Variant} {s t : State}
    (h : cipherCommand f v s = .next t) :
    ((ctxOf v s).keyed = false ∧ t = raise .errNoKey s) ∨
    ((ctxOf v s).keyed = true ∧ operandsInRange .blk s = false ∧ t = raise .errRange s) ∨
    ((ctxOf v s).keyed = true ∧ operandsInRange .blk s = true ∧
      t = complete (writeDst (blockBytes (f (ctxOf v s) v (blockOfBytes (readSrc 16 s)))) s)) := by
  simp only [cipherCommand, Host.Outcome.next.injEq] at h
  subst h
  cases (ctxOf v s).keyed <;> cases operandsInRange .blk s <;> simp

/-- AES<v>.CLEAR always completes. -/
theorem clearCommand_next {v : Variant} {s t : State} (h : clearCommand v s = .next t) :
    t = complete (setCtx v AesCtx.cleared s) := by
  simpa [clearCommand, eq_comm] using h

/-- EAX.ENC and EAX.DEC raise ERR_NOKEY, ERR_PHASE or ERR_RANGE, or stream LEN bytes. -/
theorem streamCommand_next {d : Bool} {s t : State} (h : streamCommand d s = .next t) :
    (s.eax.ph = .noKey ∧ t = raise .errNoKey s) ∨
    (s.eax.ph ≠ .noKey ∧ s.eax.ph ≠ .auth ∧ s.eax.ph ≠ .cipher ∧ t = raise .errPhase s) ∨
    ((s.eax.ph = .auth ∨ s.eax.ph = .cipher) ∧ operandsInRange .stream s = false ∧ t = raise .errRange s) ∨
    ((s.eax.ph = .auth ∨ s.eax.ph = .cipher) ∧ operandsInRange .stream s = true ∧
      t = complete (streamBytes d s.len.toNat 0 { s with eax := closeAuth s.eax })) := by
  simp only [streamCommand, Host.Outcome.next.injEq] at h
  subst h
  cases s.eax.ph <;> cases operandsInRange .stream s <;> simp

/-- XTS.ENCSECT and XTS.DECSECT raise ERR_NOKEY, ERR_PHASE or ERR_RANGE, or process one sector. -/
theorem sectorCommand_next {f : Xts → Block → Block → Block} {s t : State} (h : sectorCommand f s = .next t) :
    (s.xts.keyed = false ∧ t = raise .errNoKey s) ∨
    (s.xts.keyed = true ∧ s.xts.tweaked = false ∧ t = raise .errPhase s) ∨
    (s.xts.keyed = true ∧ s.xts.tweaked = true ∧ operandsInRange .sector s = false ∧ t = raise .errRange s) ∨
    (s.xts.keyed = true ∧ s.xts.tweaked = true ∧ operandsInRange .sector s = true ∧
      t = complete (sectorBlocks (f s.xts) (s.xts.sect.toNat / 16) 0 (unpack s.xts.tw) s)) := by
  simp only [sectorCommand, Host.Outcome.next.injEq] at h
  subst h
  cases s.xts.keyed <;> cases s.xts.tweaked <;> cases operandsInRange .sector s <;> simp

/-- A streamed byte touches DMEM and the EAX context alone, whatever the number of bytes. -/
theorem streamBytes_frame (d : Bool) : ∀ (n i : Nat) (s : State),
    streamBytes d n i s =
      { s with dmem := (streamBytes d n i s).dmem, eax := (streamBytes d n i s).eax }
  | 0, _, _ => rfl
  | n + 1, i, s => by
    have h := streamBytes_frame d n (i + 1) (streamByte d i s)
    rw [streamBytes, h]
    rfl

/-- The blocks of a sector touch DMEM alone. -/
theorem sectorBlocks_frame (f : Block → Block → Block) : ∀ (n k : Nat) (T : Block) (s : State),
    sectorBlocks f n k T s = { s with dmem := (sectorBlocks f n k T s).dmem }
  | 0, _, _, _ => rfl
  | n + 1, k, T, s => by
    have h := sectorBlocks_frame f n (k + 1) (dblLe T)
      { s with dmem := memWrite s.dmem (s.dst.toNat + 16 * k)
                (blockBytes (f T (blockOfBytes (memRead s.dmem (s.src.toNat + 16 * k) 16)))) }
    rw [sectorBlocks, h]

/-- A CMD write runs the command it decodes to, or raises ERR_OPC (R87). -/
theorem issue_cases (c : Word) (s : State) :
    (∃ i, decode c = .ok i ∧ issue c s = exec i { s with cmd := c, busy := true }) ∨
    (∃ r, decode c = .error r ∧ issue c s = .next (raise .errOpc { s with cmd := c, busy := true })) := by
  cases h : decode c with
  | ok i => exact .inl ⟨i, rfl, by simp [issue, h]⟩
  | error r => exact .inr ⟨r, rfl, by simp [issue, h]⟩

/-- Everything one action can do when it answers a next state (R349, R350). -/
theorem perform_next {a : HostAction} {s t : State} (h : perform a s = .next t) :
    (∃ bits o, portAction s.params a = .readReg bits o ∧ accessOk bits o = true ∧ t = logRead (.reg o (readSlot o s)) s) ∨
    (∃ bits o v, portAction s.params a = .writeReg bits o v ∧ accessOk bits o = true ∧ s.busy = false ∧
      writeSlot o v s = .next t) ∨
    (∃ addr n, portAction s.params a = .readMem addr n ∧ inRange s.params addr n = true ∧
      t = logRead (.mem addr (memRead s.dmem addr n)) s) ∨
    (∃ addr bs, portAction s.params a = .writeMem addr bs ∧ inRange s.params addr bs.length = true ∧
      t = { s with dmem := memWrite s.dmem addr bs }) ∨
    (∃ contents, portAction s.params a = .reset contents ∧ t = afterReset contents s) := by
  simp only [perform] at h
  generalize portAction s.params a = p at h ⊢
  split at h
  · cases h
  · next hb =>
    cases p with
    | readReg bits o =>
      simp only [access] at h
      split at h
      · next ha => cases h; exact .inl ⟨bits, o, rfl, ha, rfl⟩
      · cases h
    | writeReg bits o v =>
      simp only [access] at h
      split at h
      · next ha =>
        refine .inr (.inl ⟨bits, o, v, rfl, ha, ?_, h⟩)
        simpa [stuckWhileBusy] using hb
      · cases h
    | readMem addr n =>
      simp only [access] at h
      split at h
      · next ha => cases h; exact .inr (.inr (.inl ⟨addr, n, rfl, ha, rfl⟩))
      · cases h
    | writeMem addr bs =>
      simp only [access] at h
      split at h
      · next ha => cases h; exact .inr (.inr (.inr (.inl ⟨addr, bs, rfl, ha, rfl⟩)))
      · cases h
    | bus b => cases h
    | reset contents =>
      simp only [access] at h
      cases h
      exact .inr (.inr (.inr (.inr ⟨contents, rfl, rfl⟩)))

/-- A host address in the register window reaches the slot at its offset (R24). -/
theorem windowOffset_base (p : Params) (o : BitVec 8) : windowOffset p (p.regBase + o.toNat) = some o := by
  have := o.isLt
  simp [windowOffset, this]

/-- A host address from DMEM_BASE on reaches the DMEM address it lies above it (R64). -/
theorem dmemAddress_base (p : Params) (a : Nat) : dmemAddress p (p.dmemBase + a) = some a := by simp [dmemAddress]

/-- A write to a register slot: a command at offset 0, a store at 4, 8, 0x0C and 0x10, nothing elsewhere (R24). -/
theorem writeSlot_cases (o : BitVec 8) (v : Word) (s : State) :
    (o.toNat = 0x00 ∧ writeSlot o v s = issue v s) ∨
    (o.toNat = 0x04 ∧ writeSlot o v s = .next { s with src := v }) ∨
    (o.toNat = 0x08 ∧ writeSlot o v s = .next { s with dst := v }) ∨
    (o.toNat = 0x0C ∧ writeSlot o v s = .next { s with len := v }) ∨
    (o.toNat = 0x10 ∧ writeSlot o v s = .next { s with arg := v }) ∨
    writeSlot o v s = .next s := by
  unfold writeSlot
  split
  · next h => exact .inl ⟨h, rfl⟩
  · next h => exact .inr (.inl ⟨h, rfl⟩)
  · next h => exact .inr (.inr (.inl ⟨h, rfl⟩))
  · next h => exact .inr (.inr (.inr (.inl ⟨h, rfl⟩)))
  · next h => exact .inr (.inr (.inr (.inr (.inl ⟨h, rfl⟩))))
  · exact .inr (.inr (.inr (.inr (.inr rfl))))

/-- A step takes the next action, or the run is over and nothing changes (R333, R349). -/
theorem step_cases (s : State) :
    (s.actions = [] ∧ step s = .next s) ∨
    (∃ a rest, s.actions = a :: rest ∧ step s = perform a { s with actions := rest }) := by
  cases h : s.actions with
  | nil => exact .inl ⟨rfl, by simp [step, hostStep, h]⟩
  | cons a rest => exact .inr ⟨a, rest, rfl, by simp [step, hostStep, h]⟩

end Sys2Proof.Machine
end

