-- ==== Sys2Proof/Laws/PerInstr.lean ====
section
/-! SUPPORT. Facts about every command as syntax, one lemma per constructor. -/

namespace Sys2Proof.Laws.EncodingFits

/-- The command word of `i` has RSVD zero and is its opcode, zero-extended (30_encoding.md rule R86). -/
def Statement (i : Instr) : Prop := rsvd (encode i) = 0 ∧ (opc (encode i)).toNat = opcode i

theorem nop : Statement .nop := by unfold Statement; decide
theorem subbytes : Statement .subbytes := by unfold Statement; decide
theorem shiftrows : Statement .shiftrows := by unfold Statement; decide
theorem sbsr : Statement .sbsr := by unfold Statement; decide
theorem isubbytes : Statement .isubbytes := by unfold Statement; decide
theorem ishiftrows : Statement .ishiftrows := by unfold Statement; decide
theorem isrsb : Statement .isrsb := by unfold Statement; decide
theorem mixc : Statement .mixc := by unfold Statement; decide
theorem imixc : Statement .imixc := by unfold Statement; decide
theorem ark : Statement .ark := by unfold Statement; decide
theorem subb : Statement .subb := by unfold Statement; decide
theorem isubb : Statement .isubb := by unfold Statement; decide
theorem xtime : Statement .xtime := by unfold Statement; decide
theorem gmul : Statement .gmul := by unfold Statement; decide
theorem rcon : Statement .rcon := by unfold Statement; decide
theorem kcore : Statement .kcore := by unfold Statement; decide
theorem subword : Statement .subword := by unfold Statement; decide
theorem kstep128 : Statement .kstep128 := by unfold Statement; decide
theorem kstep192 : Statement .kstep192 := by unfold Statement; decide
theorem kstep256 : Statement .kstep256 := by unfold Statement; decide
theorem ikstep128 : Statement .ikstep128 := by unfold Statement; decide
theorem ikstep192 : Statement .ikstep192 := by unfold Statement; decide
theorem ikstep256 : Statement .ikstep256 := by unfold Statement; decide
theorem aesf128Setkey : Statement .aesf128Setkey := by unfold Statement; decide
theorem aesf128Enc : Statement .aesf128Enc := by unfold Statement; decide
theorem aesf128Dec : Statement .aesf128Dec := by unfold Statement; decide
theorem aesf128Clear : Statement .aesf128Clear := by unfold Statement; decide
theorem aesf128Keysize : Statement .aesf128Keysize := by unfold Statement; decide
theorem aesf128Blocksize : Statement .aesf128Blocksize := by unfold Statement; decide
theorem aesf192Setkey : Statement .aesf192Setkey := by unfold Statement; decide
theorem aesf192Enc : Statement .aesf192Enc := by unfold Statement; decide
theorem aesf192Dec : Statement .aesf192Dec := by unfold Statement; decide
theorem aesf192Clear : Statement .aesf192Clear := by unfold Statement; decide
theorem aesf192Keysize : Statement .aesf192Keysize := by unfold Statement; decide
theorem aesf192Blocksize : Statement .aesf192Blocksize := by unfold Statement; decide
theorem aesf256Setkey : Statement .aesf256Setkey := by unfold Statement; decide
theorem aesf256Enc : Statement .aesf256Enc := by unfold Statement; decide
theorem aesf256Dec : Statement .aesf256Dec := by unfold Statement; decide
theorem aesf256Clear : Statement .aesf256Clear := by unfold Statement; decide
theorem aesf256Keysize : Statement .aesf256Keysize := by unfold Statement; decide
theorem aesf256Blocksize : Statement .aesf256Blocksize := by unfold Statement; decide
theorem aest128Setkey : Statement .aest128Setkey := by unfold Statement; decide
theorem aest128Enc : Statement .aest128Enc := by unfold Statement; decide
theorem aest128Dec : Statement .aest128Dec := by unfold Statement; decide
theorem aest128Clear : Statement .aest128Clear := by unfold Statement; decide
theorem aest128Keysize : Statement .aest128Keysize := by unfold Statement; decide
theorem aest128Blocksize : Statement .aest128Blocksize := by unfold Statement; decide
theorem aest256Setkey : Statement .aest256Setkey := by unfold Statement; decide
theorem aest256Enc : Statement .aest256Enc := by unfold Statement; decide
theorem aest256Dec : Statement .aest256Dec := by unfold Statement; decide
theorem aest256Clear : Statement .aest256Clear := by unfold Statement; decide
theorem aest256Keysize : Statement .aest256Keysize := by unfold Statement; decide
theorem aest256Blocksize : Statement .aest256Blocksize := by unfold Statement; decide
theorem aess128Setkey : Statement .aess128Setkey := by unfold Statement; decide
theorem aess128Enc : Statement .aess128Enc := by unfold Statement; decide
theorem aess128Dec : Statement .aess128Dec := by unfold Statement; decide
theorem aess128Clear : Statement .aess128Clear := by unfold Statement; decide
theorem aess128Keysize : Statement .aess128Keysize := by unfold Statement; decide
theorem aess128Blocksize : Statement .aess128Blocksize := by unfold Statement; decide
theorem aess256Setkey : Statement .aess256Setkey := by unfold Statement; decide
theorem aess256Enc : Statement .aess256Enc := by unfold Statement; decide
theorem aess256Dec : Statement .aess256Dec := by unfold Statement; decide
theorem aess256Clear : Statement .aess256Clear := by unfold Statement; decide
theorem aess256Keysize : Statement .aess256Keysize := by unfold Statement; decide
theorem aess256Blocksize : Statement .aess256Blocksize := by unfold Statement; decide
theorem eaxSetkey : Statement .eaxSetkey := by unfold Statement; decide
theorem eaxSetiv : Statement .eaxSetiv := by unfold Statement; decide
theorem eaxAad : Statement .eaxAad := by unfold Statement; decide
theorem eaxEnc : Statement .eaxEnc := by unfold Statement; decide
theorem eaxDec : Statement .eaxDec := by unfold Statement; decide
theorem eaxTag : Statement .eaxTag := by unfold Statement; decide
theorem eaxChktag : Statement .eaxChktag := by unfold Statement; decide
theorem eaxClear : Statement .eaxClear := by unfold Statement; decide
theorem eaxKeysize : Statement .eaxKeysize := by unfold Statement; decide
theorem eaxIvsize : Statement .eaxIvsize := by unfold Statement; decide
theorem eaxTagsize : Statement .eaxTagsize := by unfold Statement; decide
theorem xtsSetkey : Statement .xtsSetkey := by unfold Statement; decide
theorem xtsSettweak : Statement .xtsSettweak := by unfold Statement; decide
theorem xtsSetsect : Statement .xtsSetsect := by unfold Statement; decide
theorem xtsGetsect : Statement .xtsGetsect := by unfold Statement; decide
theorem xtsEncsect : Statement .xtsEncsect := by unfold Statement; decide
theorem xtsDecsect : Statement .xtsDecsect := by unfold Statement; decide
theorem xtsClear : Statement .xtsClear := by unfold Statement; decide
theorem xtsKeysize : Statement .xtsKeysize := by unfold Statement; decide
theorem xtsTweaksize : Statement .xtsTweaksize := by unfold Statement; decide

end Sys2Proof.Laws.EncodingFits
end

