-- ==== Sys2Proof/Laws/State.lean ====
section
/-! SUPPORT. One lemma per field per update of the state, each true by rfl, so that no proof unfolds an update. -/

namespace Sys2Proof.Machine

@[simp] theorem raise_cmd (c : Code) (s : State) : (raise c s).cmd = s.cmd := rfl
@[simp] theorem raise_src (c : Code) (s : State) : (raise c s).src = s.src := rfl
@[simp] theorem raise_dst (c : Code) (s : State) : (raise c s).dst = s.dst := rfl
@[simp] theorem raise_len (c : Code) (s : State) : (raise c s).len = s.len := rfl
@[simp] theorem raise_arg (c : Code) (s : State) : (raise c s).arg = s.arg := rfl
@[simp] theorem raise_code (c : Code) (s : State) : (raise c s).code = c := rfl
@[simp] theorem raise_busy (c : Code) (s : State) : (raise c s).busy = false := rfl
@[simp] theorem raise_result (c : Code) (s : State) : (raise c s).result = s.result := rfl
@[simp] theorem raise_ctx (c : Code) (s : State) : (raise c s).ctx = s.ctx := rfl
@[simp] theorem raise_eax (c : Code) (s : State) : (raise c s).eax = s.eax := rfl
@[simp] theorem raise_xts (c : Code) (s : State) : (raise c s).xts = s.xts := rfl
@[simp] theorem raise_dmem (c : Code) (s : State) : (raise c s).dmem = s.dmem := rfl
@[simp] theorem raise_params (c : Code) (s : State) : (raise c s).params = s.params := rfl
@[simp] theorem raise_actions (c : Code) (s : State) : (raise c s).actions = s.actions := rfl
@[simp] theorem raise_reads (c : Code) (s : State) : (raise c s).reads = s.reads := rfl

@[simp] theorem complete_cmd (s : State) : (complete s).cmd = s.cmd := rfl
@[simp] theorem complete_src (s : State) : (complete s).src = s.src := rfl
@[simp] theorem complete_dst (s : State) : (complete s).dst = s.dst := rfl
@[simp] theorem complete_len (s : State) : (complete s).len = s.len := rfl
@[simp] theorem complete_arg (s : State) : (complete s).arg = s.arg := rfl
@[simp] theorem complete_code (s : State) : (complete s).code = Code.ok := rfl
@[simp] theorem complete_busy (s : State) : (complete s).busy = false := rfl
@[simp] theorem complete_result (s : State) : (complete s).result = s.result := rfl
@[simp] theorem complete_ctx (s : State) : (complete s).ctx = s.ctx := rfl
@[simp] theorem complete_eax (s : State) : (complete s).eax = s.eax := rfl
@[simp] theorem complete_xts (s : State) : (complete s).xts = s.xts := rfl
@[simp] theorem complete_dmem (s : State) : (complete s).dmem = s.dmem := rfl
@[simp] theorem complete_params (s : State) : (complete s).params = s.params := rfl
@[simp] theorem complete_actions (s : State) : (complete s).actions = s.actions := rfl
@[simp] theorem complete_reads (s : State) : (complete s).reads = s.reads := rfl

@[simp] theorem setResult_cmd (v : Word) (s : State) : (setResult v s).cmd = s.cmd := rfl
@[simp] theorem setResult_src (v : Word) (s : State) : (setResult v s).src = s.src := rfl
@[simp] theorem setResult_dst (v : Word) (s : State) : (setResult v s).dst = s.dst := rfl
@[simp] theorem setResult_len (v : Word) (s : State) : (setResult v s).len = s.len := rfl
@[simp] theorem setResult_arg (v : Word) (s : State) : (setResult v s).arg = s.arg := rfl
@[simp] theorem setResult_code (v : Word) (s : State) : (setResult v s).code = s.code := rfl
@[simp] theorem setResult_busy (v : Word) (s : State) : (setResult v s).busy = s.busy := rfl
@[simp] theorem setResult_result (v : Word) (s : State) : (setResult v s).result = v := rfl
@[simp] theorem setResult_ctx (v : Word) (s : State) : (setResult v s).ctx = s.ctx := rfl
@[simp] theorem setResult_eax (v : Word) (s : State) : (setResult v s).eax = s.eax := rfl
@[simp] theorem setResult_xts (v : Word) (s : State) : (setResult v s).xts = s.xts := rfl
@[simp] theorem setResult_dmem (v : Word) (s : State) : (setResult v s).dmem = s.dmem := rfl
@[simp] theorem setResult_params (v : Word) (s : State) : (setResult v s).params = s.params := rfl
@[simp] theorem setResult_actions (v : Word) (s : State) : (setResult v s).actions = s.actions := rfl
@[simp] theorem setResult_reads (v : Word) (s : State) : (setResult v s).reads = s.reads := rfl

@[simp] theorem writeDst_cmd (bs : List Byte) (s : State) : (writeDst bs s).cmd = s.cmd := rfl
@[simp] theorem writeDst_src (bs : List Byte) (s : State) : (writeDst bs s).src = s.src := rfl
@[simp] theorem writeDst_dst (bs : List Byte) (s : State) : (writeDst bs s).dst = s.dst := rfl
@[simp] theorem writeDst_len (bs : List Byte) (s : State) : (writeDst bs s).len = s.len := rfl
@[simp] theorem writeDst_arg (bs : List Byte) (s : State) : (writeDst bs s).arg = s.arg := rfl
@[simp] theorem writeDst_code (bs : List Byte) (s : State) : (writeDst bs s).code = s.code := rfl
@[simp] theorem writeDst_busy (bs : List Byte) (s : State) : (writeDst bs s).busy = s.busy := rfl
@[simp] theorem writeDst_result (bs : List Byte) (s : State) : (writeDst bs s).result = s.result := rfl
@[simp] theorem writeDst_ctx (bs : List Byte) (s : State) : (writeDst bs s).ctx = s.ctx := rfl
@[simp] theorem writeDst_eax (bs : List Byte) (s : State) : (writeDst bs s).eax = s.eax := rfl
@[simp] theorem writeDst_xts (bs : List Byte) (s : State) : (writeDst bs s).xts = s.xts := rfl
@[simp] theorem writeDst_dmem (bs : List Byte) (s : State) : (writeDst bs s).dmem = memWrite s.dmem s.dst.toNat bs := rfl
@[simp] theorem writeDst_params (bs : List Byte) (s : State) : (writeDst bs s).params = s.params := rfl
@[simp] theorem writeDst_actions (bs : List Byte) (s : State) : (writeDst bs s).actions = s.actions := rfl
@[simp] theorem writeDst_reads (bs : List Byte) (s : State) : (writeDst bs s).reads = s.reads := rfl

@[simp] theorem setCtx_cmd (v : Variant) (c : AesCtx) (s : State) : (setCtx v c s).cmd = s.cmd := rfl
@[simp] theorem setCtx_src (v : Variant) (c : AesCtx) (s : State) : (setCtx v c s).src = s.src := rfl
@[simp] theorem setCtx_dst (v : Variant) (c : AesCtx) (s : State) : (setCtx v c s).dst = s.dst := rfl
@[simp] theorem setCtx_len (v : Variant) (c : AesCtx) (s : State) : (setCtx v c s).len = s.len := rfl
@[simp] theorem setCtx_arg (v : Variant) (c : AesCtx) (s : State) : (setCtx v c s).arg = s.arg := rfl
@[simp] theorem setCtx_code (v : Variant) (c : AesCtx) (s : State) : (setCtx v c s).code = s.code := rfl
@[simp] theorem setCtx_busy (v : Variant) (c : AesCtx) (s : State) : (setCtx v c s).busy = s.busy := rfl
@[simp] theorem setCtx_result (v : Variant) (c : AesCtx) (s : State) : (setCtx v c s).result = s.result := rfl
@[simp] theorem setCtx_ctx (v : Variant) (c : AesCtx) (s : State) : (setCtx v c s).ctx = s.ctx.set (ctxIndex v) c := rfl
@[simp] theorem setCtx_eax (v : Variant) (c : AesCtx) (s : State) : (setCtx v c s).eax = s.eax := rfl
@[simp] theorem setCtx_xts (v : Variant) (c : AesCtx) (s : State) : (setCtx v c s).xts = s.xts := rfl
@[simp] theorem setCtx_dmem (v : Variant) (c : AesCtx) (s : State) : (setCtx v c s).dmem = s.dmem := rfl
@[simp] theorem setCtx_params (v : Variant) (c : AesCtx) (s : State) : (setCtx v c s).params = s.params := rfl
@[simp] theorem setCtx_actions (v : Variant) (c : AesCtx) (s : State) : (setCtx v c s).actions = s.actions := rfl
@[simp] theorem setCtx_reads (v : Variant) (c : AesCtx) (s : State) : (setCtx v c s).reads = s.reads := rfl

@[simp] theorem logRead_cmd (r : HostRead) (s : State) : (logRead r s).cmd = s.cmd := rfl
@[simp] theorem logRead_src (r : HostRead) (s : State) : (logRead r s).src = s.src := rfl
@[simp] theorem logRead_dst (r : HostRead) (s : State) : (logRead r s).dst = s.dst := rfl
@[simp] theorem logRead_len (r : HostRead) (s : State) : (logRead r s).len = s.len := rfl
@[simp] theorem logRead_arg (r : HostRead) (s : State) : (logRead r s).arg = s.arg := rfl
@[simp] theorem logRead_code (r : HostRead) (s : State) : (logRead r s).code = s.code := rfl
@[simp] theorem logRead_busy (r : HostRead) (s : State) : (logRead r s).busy = s.busy := rfl
@[simp] theorem logRead_result (r : HostRead) (s : State) : (logRead r s).result = s.result := rfl
@[simp] theorem logRead_ctx (r : HostRead) (s : State) : (logRead r s).ctx = s.ctx := rfl
@[simp] theorem logRead_eax (r : HostRead) (s : State) : (logRead r s).eax = s.eax := rfl
@[simp] theorem logRead_xts (r : HostRead) (s : State) : (logRead r s).xts = s.xts := rfl
@[simp] theorem logRead_dmem (r : HostRead) (s : State) : (logRead r s).dmem = s.dmem := rfl
@[simp] theorem logRead_params (r : HostRead) (s : State) : (logRead r s).params = s.params := rfl
@[simp] theorem logRead_actions (r : HostRead) (s : State) : (logRead r s).actions = s.actions := rfl
@[simp] theorem logRead_reads (r : HostRead) (s : State) : (logRead r s).reads = s.reads ++ [r] := rfl

@[simp] theorem queueCommand_cmd (w : Word) (s : State) : (queueCommand w s).cmd = s.cmd := rfl
@[simp] theorem queueCommand_src (w : Word) (s : State) : (queueCommand w s).src = s.src := rfl
@[simp] theorem queueCommand_dst (w : Word) (s : State) : (queueCommand w s).dst = s.dst := rfl
@[simp] theorem queueCommand_len (w : Word) (s : State) : (queueCommand w s).len = s.len := rfl
@[simp] theorem queueCommand_arg (w : Word) (s : State) : (queueCommand w s).arg = s.arg := rfl
@[simp] theorem queueCommand_code (w : Word) (s : State) : (queueCommand w s).code = s.code := rfl
@[simp] theorem queueCommand_busy (w : Word) (s : State) : (queueCommand w s).busy = false := rfl
@[simp] theorem queueCommand_result (w : Word) (s : State) : (queueCommand w s).result = s.result := rfl
@[simp] theorem queueCommand_ctx (w : Word) (s : State) : (queueCommand w s).ctx = s.ctx := rfl
@[simp] theorem queueCommand_eax (w : Word) (s : State) : (queueCommand w s).eax = s.eax := rfl
@[simp] theorem queueCommand_xts (w : Word) (s : State) : (queueCommand w s).xts = s.xts := rfl
@[simp] theorem queueCommand_dmem (w : Word) (s : State) : (queueCommand w s).dmem = s.dmem := rfl
@[simp] theorem queueCommand_params (w : Word) (s : State) : (queueCommand w s).params = s.params := rfl
@[simp] theorem queueCommand_actions (w : Word) (s : State) : (queueCommand w s).actions = HostAction.writeReg 32 0x00 w :: s.actions := rfl
@[simp] theorem queueCommand_reads (w : Word) (s : State) : (queueCommand w s).reads = s.reads := rfl

@[simp] theorem streamByte_cmd (d : Bool) (i : Nat) (s : State) : (streamByte d i s).cmd = s.cmd := rfl
@[simp] theorem streamByte_src (d : Bool) (i : Nat) (s : State) : (streamByte d i s).src = s.src := rfl
@[simp] theorem streamByte_dst (d : Bool) (i : Nat) (s : State) : (streamByte d i s).dst = s.dst := rfl
@[simp] theorem streamByte_len (d : Bool) (i : Nat) (s : State) : (streamByte d i s).len = s.len := rfl
@[simp] theorem streamByte_arg (d : Bool) (i : Nat) (s : State) : (streamByte d i s).arg = s.arg := rfl
@[simp] theorem streamByte_code (d : Bool) (i : Nat) (s : State) : (streamByte d i s).code = s.code := rfl
@[simp] theorem streamByte_busy (d : Bool) (i : Nat) (s : State) : (streamByte d i s).busy = s.busy := rfl
@[simp] theorem streamByte_result (d : Bool) (i : Nat) (s : State) : (streamByte d i s).result = s.result := rfl
@[simp] theorem streamByte_ctx (d : Bool) (i : Nat) (s : State) : (streamByte d i s).ctx = s.ctx := rfl
@[simp] theorem streamByte_xts (d : Bool) (i : Nat) (s : State) : (streamByte d i s).xts = s.xts := rfl
@[simp] theorem streamByte_params (d : Bool) (i : Nat) (s : State) : (streamByte d i s).params = s.params := rfl
@[simp] theorem streamByte_actions (d : Bool) (i : Nat) (s : State) : (streamByte d i s).actions = s.actions := rfl
@[simp] theorem streamByte_reads (d : Bool) (i : Nat) (s : State) : (streamByte d i s).reads = s.reads := rfl

/-- `ctx[v]` after a write of it (R35). -/
@[simp] theorem ctxOf_setCtx_self (v : Variant) (c : AesCtx) (s : State) : ctxOf v (setCtx v c s) = c := by
  simp [ctxOf, setCtx]

theorem ctxIndex_ne {v w : Variant} (h : w ≠ v) : ctxIndex v ≠ ctxIndex w := by
  cases v <;> cases w <;> first | exact absurd rfl h | decide

/-- Another context after a write of `ctx[v]` (R35). -/
theorem ctxOf_setCtx_ne {v w : Variant} (h : w ≠ v) (c : AesCtx) (s : State) : ctxOf w (setCtx v c s) = ctxOf w s := by
  have hi : (ctxIndex v).val ≠ (ctxIndex w).val := fun e => ctxIndex_ne h (Fin.ext e)
  simp only [ctxOf, setCtx]
  exact Vector.getElem_set_ne _ _ hi

@[simp] theorem ctxOf_raise (w : Variant) (c : Code) (s : State) : ctxOf w (raise c s) = ctxOf w s := rfl
@[simp] theorem ctxOf_complete (w : Variant) (s : State) : ctxOf w (complete s) = ctxOf w s := rfl
@[simp] theorem ctxOf_setResult (w : Variant) (v : Word) (s : State) : ctxOf w (setResult v s) = ctxOf w s := rfl
@[simp] theorem ctxOf_writeDst (w : Variant) (bs : List Byte) (s : State) : ctxOf w (writeDst bs s) = ctxOf w s := rfl

/-- A command that ends leaves BUSY = 0, so STATUS is the code alone (R31). -/
theorem statusWord_raise (c : Code) (s : State) : statusWord (raise c s) = (codeByte c).setWidth 32 := by
  simp only [statusWord, raise_busy, raise_code]
  cases c <;> decide

theorem statusWord_complete (s : State) : statusWord (complete s) = 0 := by
  simp only [statusWord, complete_busy, complete_code]
  decide

end Sys2Proof.Machine
end

