-- ==== Sys2Proof/Tests/Slice0.lean ====
section
/-! SUPPORT. Tests: the checks of well-formedness, every command's decoding, one step of each command on the values the
spec gives, and a witness for the hypotheses of each statement. -/

namespace Sys2Proof.Tests

set_option Elab.async false

open Sys2Proof Sys2Proof.Machine

/-! ### Helpers -/

/-- The `n` bytes of a numeral written as the spec writes a byte string, first byte first. -/
def bytes (n x : Nat) : List Byte := (List.range n).map fun i => BitVec.ofNat 8 (x / 256 ^ (n - 1 - i))

/-- A block written as the spec writes it. -/
def block (x : Nat) : Block := blockOfBytes (bytes 16 x)

/-- A block of 4 KiB of DMEM after reset, SECTOR_MAX 4096. -/
def base : State := { State.reset with params := ⟨0x1000, 4096, 0x40000000, 0x80000000⟩ }

/-- `base` with one byte string at 0x100 (SRC), DST = 0x200, LEN its length, and a value in ARG. -/
def withInput (arg n x : Nat) : State :=
  { base with
    src := 0x100, dst := 0x200, len := BitVec.ofNat 32 n, arg := BitVec.ofNat 32 arg
    dmem := memWrite [] 0x100 (bytes n x) }

/-- A property of the next state, if there is one. -/
def after (o : Host.Outcome State Fault Refusal) (p : State → Bool) : Bool :=
  match o with
  | .next t => p t
  | .fault _ => false
  | .refused _ => false

/-- The command completes with OK and the `n` bytes at 0x200 are `x`. -/
def writes (i : Instr) (s : State) (n x : Nat) : Bool :=
  after (exec i s) fun t => t.code == .ok && memRead t.dmem 0x200 n == bytes n x

/-- The command completes with OK and RESULT is `v`. -/
def reports (i : Instr) (s : State) (v : Word) : Bool := after (exec i s) fun t => t.code == .ok && t.result == v

/-- The command reports the error `c` and changes nothing but STATUS. -/
def raises (i : Instr) (s : State) (c : Code) : Bool :=
  after (exec i s) fun t => t == { s with code := c, busy := false } && codeIsError c

/-- `base` with context `v` keyed, a block at 0x100, and DST = 0x200. -/
def withKey (v : Variant) (key x : Nat) : State :=
  setCtx v (aesSetup v (words (bytes (keyBytes v) key))) (withInput 0 16 x)

/-! ### Well-formedness (30_encoding.md R92) and the host's accesses (20_memory.md R67) -/

theorem test_wellFormed_rsvd : wordWellFormed 0x00000141 = false ∧ wordWellFormed 0x80000041 = false := by decide

theorem test_wellFormed_opcode :
    wordWellFormed 0x0000000A = false ∧ wordWellFormed 0x00000015 = false ∧ wordWellFormed 0x00000020 = false ∧
    wordWellFormed 0x00000046 = false ∧ wordWellFormed 0x0000006F = false ∧ wordWellFormed 0x00000078 = false ∧
    wordWellFormed 0x0000008B = false ∧ wordWellFormed 0x000000A9 = false ∧
      wordWellFormed 0x000000FF = false := by decide

theorem test_wellFormed_accepts :
    wordWellFormed 0x00000000 = true ∧ wordWellFormed 0x00000041 = true ∧
      wordWellFormed 0x000000A8 = true := by decide

theorem test_accessOk_width : accessOk 16 0x04 = false ∧ accessOk 64 0x04 = false ∧
    accessOk 32 0x04 = true := by decide

theorem test_accessOk_offset : accessOk 32 0x02 = false ∧ accessOk 32 0x17 = false ∧
    accessOk 32 0xFC = true := by decide

/-! ### Decoding: the words of 30_encoding.md R90 and R91, one for each command -/

theorem test_decode_system_command :
    decode 0x00000000 = .ok .nop := by decide

theorem test_decode_block_primitives :
    decode 0x00000001 = .ok .subbytes ∧ decode 0x00000002 = .ok .shiftrows ∧ decode 0x00000003 = .ok .sbsr ∧
    decode 0x00000004 = .ok .isubbytes ∧ decode 0x00000005 = .ok .ishiftrows ∧ decode 0x00000006 = .ok .isrsb ∧
    decode 0x00000007 = .ok .mixc ∧ decode 0x00000008 = .ok .imixc ∧ decode 0x00000009 = .ok .ark := by decide

theorem test_decode_byte_functions :
    decode 0x00000010 = .ok .subb ∧ decode 0x00000011 = .ok .isubb ∧ decode 0x00000012 = .ok .xtime ∧
    decode 0x00000013 = .ok .gmul ∧ decode 0x00000014 = .ok .rcon := by decide

theorem test_decode_word_and_window_functions :
    decode 0x00000018 = .ok .kcore ∧ decode 0x00000019 = .ok .subword ∧ decode 0x0000001A = .ok .kstep128 ∧
    decode 0x0000001B = .ok .kstep192 ∧ decode 0x0000001C = .ok .kstep256 ∧
    decode 0x0000001D = .ok .ikstep128 ∧ decode 0x0000001E = .ok .ikstep192 ∧
      decode 0x0000001F = .ok .ikstep256 := by decide

theorem test_decode_aesf128 :
    decode 0b01_000_000 = .ok .aesf128Setkey ∧ decode 0b01_000_001 = .ok .aesf128Enc ∧
    decode 0b01_000_010 = .ok .aesf128Dec ∧ decode 0b01_000_011 = .ok .aesf128Clear ∧
    decode 0b01_000_100 = .ok .aesf128Keysize ∧ decode 0b01_000_101 = .ok .aesf128Blocksize := by decide

theorem test_decode_aesf192 :
    decode 0b01_001_000 = .ok .aesf192Setkey ∧ decode 0b01_001_001 = .ok .aesf192Enc ∧
    decode 0b01_001_010 = .ok .aesf192Dec ∧ decode 0b01_001_011 = .ok .aesf192Clear ∧
    decode 0b01_001_100 = .ok .aesf192Keysize ∧ decode 0b01_001_101 = .ok .aesf192Blocksize := by decide

theorem test_decode_aesf256 :
    decode 0b01_010_000 = .ok .aesf256Setkey ∧ decode 0b01_010_001 = .ok .aesf256Enc ∧
    decode 0b01_010_010 = .ok .aesf256Dec ∧ decode 0b01_010_011 = .ok .aesf256Clear ∧
    decode 0b01_010_100 = .ok .aesf256Keysize ∧ decode 0b01_010_101 = .ok .aesf256Blocksize := by decide

theorem test_decode_aest128 :
    decode 0b01_011_000 = .ok .aest128Setkey ∧ decode 0b01_011_001 = .ok .aest128Enc ∧
    decode 0b01_011_010 = .ok .aest128Dec ∧ decode 0b01_011_011 = .ok .aest128Clear ∧
    decode 0b01_011_100 = .ok .aest128Keysize ∧ decode 0b01_011_101 = .ok .aest128Blocksize := by decide

theorem test_decode_aest256 :
    decode 0b01_100_000 = .ok .aest256Setkey ∧ decode 0b01_100_001 = .ok .aest256Enc ∧
    decode 0b01_100_010 = .ok .aest256Dec ∧ decode 0b01_100_011 = .ok .aest256Clear ∧
    decode 0b01_100_100 = .ok .aest256Keysize ∧ decode 0b01_100_101 = .ok .aest256Blocksize := by decide

theorem test_decode_aess128 :
    decode 0b01_101_000 = .ok .aess128Setkey ∧ decode 0b01_101_001 = .ok .aess128Enc ∧
    decode 0b01_101_010 = .ok .aess128Dec ∧ decode 0b01_101_011 = .ok .aess128Clear ∧
    decode 0b01_101_100 = .ok .aess128Keysize ∧ decode 0b01_101_101 = .ok .aess128Blocksize := by decide

theorem test_decode_aess256 :
    decode 0b01_110_000 = .ok .aess256Setkey ∧ decode 0b01_110_001 = .ok .aess256Enc ∧
    decode 0b01_110_010 = .ok .aess256Dec ∧ decode 0b01_110_011 = .ok .aess256Clear ∧
    decode 0b01_110_100 = .ok .aess256Keysize ∧ decode 0b01_110_101 = .ok .aess256Blocksize := by decide

theorem test_decode_eax :
    decode 0x00000080 = .ok .eaxSetkey ∧ decode 0x00000081 = .ok .eaxSetiv ∧ decode 0x00000082 = .ok .eaxAad ∧
    decode 0x00000083 = .ok .eaxEnc ∧ decode 0x00000084 = .ok .eaxDec ∧ decode 0x00000085 = .ok .eaxTag ∧
    decode 0x00000086 = .ok .eaxChktag ∧ decode 0x00000087 = .ok .eaxClear ∧
    decode 0x00000088 = .ok .eaxKeysize ∧ decode 0x00000089 = .ok .eaxIvsize ∧
    decode 0x0000008A = .ok .eaxTagsize := by decide

theorem test_decode_xts :
    decode 0x000000A0 = .ok .xtsSetkey ∧ decode 0x000000A1 = .ok .xtsSettweak ∧
    decode 0x000000A2 = .ok .xtsSetsect ∧ decode 0x000000A3 = .ok .xtsGetsect ∧
    decode 0x000000A4 = .ok .xtsEncsect ∧ decode 0x000000A5 = .ok .xtsDecsect ∧
    decode 0x000000A6 = .ok .xtsClear ∧ decode 0x000000A7 = .ok .xtsKeysize ∧
    decode 0x000000A8 = .ok .xtsTweaksize := by decide

theorem test_decode_reserved :
    decode 0x00000100 = .error .rsvdNotZero ∧ decode 0x01000041 = .error .rsvdNotZero ∧
    decode 0x0000000A = .error .opcodeUnassigned ∧ decode 0x00000017 = .error .opcodeUnassigned ∧
    decode 0b01_110_110 = .error .opcodeUnassigned ∧ decode 0b01_111_000 = .error .opcodeUnassigned ∧
    decode 0x000000FF = .error .opcodeUnassigned := by decide

theorem test_decodeTableWord : decodeTableWord 32 0x41 = some .aesf128Enc ∧
    decodeTableWord 8 0xA8 = some .xtsTweaksize ∧
    decodeTableWord 32 0x141 = none := by decide

theorem test_withFetchWord_runs : after (step (base.withFetchWord 32 0x89)) (fun t => t.result == 16 &&
    t.cmd == 0x89) = true := by
  decide

/-! ### System command and primitives (44_system.md R301; 40_aes_primitives.md, the example lines) -/

/-- R301: after ERR_RANGE, NOP leaves CODE = OK. -/
theorem test_nop :
    after (exec .nop { base with code := .errRange, result := 7 })
      (fun t => t == { base with result := 7 }) = true := by
  decide +kernel

/-- R133. -/
theorem test_subbytes :
    writes .subbytes (withInput 0 16 0x00112233445566778899aabbccddeeff) 16 0x638293c31bfc33f5c4eeacea4bc12816 = true := by
  decide +kernel

/-- R134. -/
theorem test_shiftrows :
    writes .shiftrows (withInput 0 16 0x00112233445566778899aabbccddeeff) 16 0x0055aaff4499ee3388dd2277cc1166bb = true := by
  decide +kernel

/-- R135. -/
theorem test_sbsr :
    writes .sbsr (withInput 0 16 0x193de3bea0f4e22b9ac68d2ae9f84808) 16 0xd4bf5d30e0b452aeb84111f11e2798e5 = true := by
  decide +kernel

/-- R136. -/
theorem test_isubbytes :
    writes .isubbytes (withInput 0 16 0x00112233445566778899aabbccddeeff) 16 0x52e3946686edd30297f962fe27c9997d = true := by
  decide +kernel

/-- R137. -/
theorem test_ishiftrows :
    writes .ishiftrows (withInput 0 16 0x00112233445566778899aabbccddeeff) 16 0x00ddaa774411eebb885522ffcc996633 = true := by
  decide +kernel

/-- R138. -/
theorem test_isrsb :
    writes .isrsb (withInput 0 16 0x00112233445566778899aabbccddeeff) 16 0x52c9620286e399fe97ed947d27f9d366 = true := by
  decide +kernel

/-- R139. -/
theorem test_mixc :
    writes .mixc (withInput 0 16 0xd4bf5d30e0b452aeb84111f11e2798e5) 16 0x046681e5e0cb199a48f8d37a2806264c = true := by
  decide +kernel

/-- R140. -/
theorem test_imixc :
    writes .imixc (withInput 0 16 0x8e4da1bc9fdc589d01010101c6c6c6c6) 16 0xdb135345f20a225c01010101c6c6c6c6 = true := by
  decide +kernel

/-- R66: DST + 16 one byte beyond DMEM. -/
theorem test_blk_range : raises .mixc { withInput 0 16 1 with dst := 0xFF1 } .errRange = true := by decide +kernel

/-- R66: DST + 16 at the end of DMEM is inside. -/
theorem test_blk_top :
    after (exec .imixc { withInput 0 16 1 with dst := 0xFF0 }) (fun t => t.code == .ok) = true := by
  decide +kernel

/-- R141. -/
theorem test_ark :
    writes .ark { withInput 0 16 0xa0fafe1788542cb123a339392a6c7605 with
      dmem := memWrite (memWrite [] 0x100 (bytes 16 0xa0fafe1788542cb123a339392a6c7605)) 0x200
        (bytes 16 0x046681e5e0cb199a48f8d37a2806264c) } 16 0xa49c7ff2689f352b6b5bea43026a5049 = true := by
  decide +kernel

/-- R141: SRC = DST writes zeros. -/
theorem test_ark_same :
    after (exec .ark { withInput 0 16 0x0123456789 with dst := 0x100 }) (fun t => t.dmem == []) = true := by
  decide +kernel

/-- R142. -/
theorem test_subb : reports .subb (withInput 0x53 0 0) 0xED = true := by decide +kernel

/-- R143. -/
theorem test_isubb : reports .isubb (withInput 0xED 0 0) 0x53 = true := by decide +kernel

/-- R144. -/
theorem test_xtime : reports .xtime (withInput 0x57 0 0) 0xAE = true := by decide +kernel

/-- R145. -/
theorem test_gmul : reports .gmul (withInput 0x8357 0 0) 0xC1 = true := by decide +kernel

/-- R146. -/
theorem test_rcon : reports .rcon (withInput 4 0 0) 8 = true := by decide +kernel

/-- R144: the reduction case, and ARG bits above 7 ignored. -/
theorem test_xtime_reduces : reports .xtime (withInput 0xFFFFFF80 0 0) 0x1B = true := by decide +kernel

/-- R146: the last index, and the first refused ones. -/
theorem test_rcon_bounds :
    reports .rcon (withInput 10 0 0) 0x36 = true ∧ raises .rcon (withInput 0 0 0) .errArg = true ∧
    raises .rcon (withInput 11 0 0) .errArg = true := by
  decide +kernel

/-- R147. -/
theorem test_kcore : writes .kcore (withInput 1 4 0x09cf4f3c) 4 0x8b84eb01 = true ∧
    writes .kcore (withInput 10 4 0xffffffff) 4 0x20161616 = true := by decide +kernel

/-- R308: ERR_ARG before ERR_RANGE. -/
theorem test_kcore_order : raises .kcore { withInput 0 4 0 with src := 0xFFFFFFFF } .errArg = true ∧
    raises .kcore { withInput 1 4 0 with src := 0xFFFFFFFF } .errRange = true := by decide +kernel

/-- R148. -/
theorem test_subword : writes .subword (withInput 0 4 0xcf4f3c09) 4 0x8a84eb01 = true := by decide +kernel

/-- R149. -/
theorem test_kstep128 : writes .kstep128 (withInput 1 16 0x2b7e151628aed2a6abf7158809cf4f3c) 16
      0xa0fafe1788542cb123a339392a6c7605 = true := by decide +kernel

/-- R150. -/
theorem test_kstep192 : writes .kstep192 (withInput 1 24 0x8e73b0f7da0e6452c810f32b809079e562f8ead2522c6b7b) 24
      0xfe0c91f72402f5a5ec12068e6c827f6b0e7a95b95c56fec2 = true := by decide +kernel

/-- R151. -/
theorem test_kstep256 :
    writes .kstep256 (withInput 1 32 0x603deb1015ca71be2b73aef0857d77811f352c073b6108d72d9810a30914dff4) 32
      0x9ba354118e6925afa51a8b5f2067fcdea8b09c1a93d194cdbe49846eb75d5b9a = true := by
  decide +kernel

/-- R152. -/
theorem test_ikstep128 : writes .ikstep128 (withInput 1 16 0xa0fafe1788542cb123a339392a6c7605) 16
      0x2b7e151628aed2a6abf7158809cf4f3c = true := by decide +kernel

/-- R153. -/
theorem test_ikstep192 : writes .ikstep192 (withInput 1 24 0xfe0c91f72402f5a5ec12068e6c827f6b0e7a95b95c56fec2) 24
      0x8e73b0f7da0e6452c810f32b809079e562f8ead2522c6b7b = true := by decide +kernel

/-- R154. -/
theorem test_ikstep256 :
    writes .ikstep256 (withInput 1 32 0x9ba354118e6925afa51a8b5f2067fcdea8b09c1a93d194cdbe49846eb75d5b9a) 32
      0x603deb1015ca71be2b73aef0857d77811f352c073b6108d72d9810a30914dff4 = true := by
  decide +kernel

/-- R149: index 10, and 11 refused. -/
theorem test_kstep_last : writes .kstep128 (withInput 10 16 0) 16 0x55636363556363635563636355636363 = true ∧
    raises .kstep128 (withInput 11 16 0) .errArg = true := by decide +kernel

/-! ### AES variants (41_aes_variants.md, the example lines; FIPS-197 Appendix C) -/

/-- The keys, the plaintext and the ciphertexts of FIPS-197 Appendix C.1, C.2 and C.3. -/
def key128 : Nat := 0x000102030405060708090a0b0c0d0e0f
def key192 : Nat := 0x000102030405060708090a0b0c0d0e0f1011121314151617
def key256 : Nat := 0x000102030405060708090a0b0c0d0e0f101112131415161718191a1b1c1d1e1f
def plain : Nat := 0x00112233445566778899aabbccddeeff
def cipher128 : Nat := 0x69c4e0d86a7b0430d8cdb78070b4c55a
def cipher192 : Nat := 0xdda97ca4864cdfe06eaf70a0ec0d7191
def cipher256 : Nat := 0x8ea2b7ca516745bfeafc49904b496089

/-- R172: the context of code 0 is keyed, and starts with the key. -/
theorem test_aesf128_setkey :
    after (exec .aesf128Setkey (withInput 0 16 key128)) (fun t => t.code == .ok &&
      t.ctx[0].keyed &&
      t.ctx[0].ek[0] == block key128) = true := by
  decide +kernel

/-- R172: another key length changes nothing. -/
theorem test_aesf128_setkey_len :
    raises .aesf128Setkey (withInput 0 15 0) .errLen = true ∧
      raises .aesf128Setkey (withInput 0 17 0) .errLen = true := by
  decide +kernel

/-- R173. -/
theorem test_aesf128_enc :
    writes .aesf128Enc (withKey .full128 key128 plain)
      16 cipher128 = true := by
  decide +kernel

/-- R174. -/
theorem test_aesf128_dec :
    writes .aesf128Dec (withKey .full128 key128 cipher128)
      16 plain = true := by
  decide +kernel

/-- R173, R174: without a key. -/
theorem test_aesf128_nokey :
    raises .aesf128Enc base .errNoKey = true ∧ raises .aesf128Dec base .errNoKey = true := by
  decide +kernel

/-- R175. -/
theorem test_aesf128_clear :
    after (exec .aesf128Clear (setCtx .full128 ⟨true, Vector.replicate 15 (block 1), Vector.replicate 15 (block 2),
      Vector.replicate 8 ⟨1, 2, 3, 4⟩, Vector.replicate 8 ⟨5, 6, 7, 8⟩⟩ base)) (fun t => t == base) = true := by
  decide +kernel

/-- R176, R177. -/
theorem test_aesf128_queries :
    reports .aesf128Keysize base 16 = true ∧ reports .aesf128Blocksize base 16 = true := by
  decide +kernel

/-- R178: the context of code 1 is keyed, and starts with the key. -/
theorem test_aesf192_setkey :
    after (exec .aesf192Setkey (withInput 0 24 key192))
      (fun t => t.code == .ok && t.ctx[1].keyed &&
      t.ctx[1].ek[0] == block key128) = true := by
  decide +kernel

/-- R178: another key length changes nothing. -/
theorem test_aesf192_setkey_len :
    raises .aesf192Setkey (withInput 0 23 0) .errLen = true ∧
      raises .aesf192Setkey (withInput 0 25 0) .errLen = true := by
  decide +kernel

/-- R179. -/
theorem test_aesf192_enc :
    writes .aesf192Enc (withKey .full192 key192 plain)
      16 cipher192 = true := by
  decide +kernel

/-- R180. -/
theorem test_aesf192_dec :
    writes .aesf192Dec (withKey .full192 key192 cipher192)
      16 plain = true := by
  decide +kernel

/-- R179, R180: without a key. -/
theorem test_aesf192_nokey :
    raises .aesf192Enc base .errNoKey = true ∧ raises .aesf192Dec base .errNoKey = true := by
  decide +kernel

/-- R181. -/
theorem test_aesf192_clear :
    after (exec .aesf192Clear (setCtx .full192 ⟨true, Vector.replicate 15 (block 1), Vector.replicate 15 (block 2),
      Vector.replicate 8 ⟨1, 2, 3, 4⟩, Vector.replicate 8 ⟨5, 6, 7, 8⟩⟩ base)) (fun t => t == base) = true := by
  decide +kernel

/-- R182, R183. -/
theorem test_aesf192_queries :
    reports .aesf192Keysize base 24 = true ∧ reports .aesf192Blocksize base 16 = true := by
  decide +kernel

/-- R184: the context of code 2 is keyed, and starts with the key. -/
theorem test_aesf256_setkey :
    after (exec .aesf256Setkey (withInput 0 32 key256)) (fun t => t.code == .ok && t.ctx[2].keyed &&
      t.ctx[2].ek[0] == block key128) = true := by
  decide +kernel

/-- R184: another key length changes nothing. -/
theorem test_aesf256_setkey_len :
    raises .aesf256Setkey (withInput 0 31 0) .errLen = true ∧
      raises .aesf256Setkey (withInput 0 33 0) .errLen = true := by
  decide +kernel

/-- R185. -/
theorem test_aesf256_enc :
    writes .aesf256Enc (withKey .full256 key256 plain)
      16 cipher256 = true := by
  decide +kernel

/-- R186. -/
theorem test_aesf256_dec :
    writes .aesf256Dec (withKey .full256 key256 cipher256)
      16 plain = true := by
  decide +kernel

/-- R185, R186: without a key. -/
theorem test_aesf256_nokey :
    raises .aesf256Enc base .errNoKey = true ∧ raises .aesf256Dec base .errNoKey = true := by
  decide +kernel

/-- R187. -/
theorem test_aesf256_clear :
    after (exec .aesf256Clear (setCtx .full256 ⟨true, Vector.replicate 15 (block 1), Vector.replicate 15 (block 2),
      Vector.replicate 8 ⟨1, 2, 3, 4⟩, Vector.replicate 8 ⟨5, 6, 7, 8⟩⟩ base)) (fun t => t == base) = true := by
  decide +kernel

/-- R188, R189. -/
theorem test_aesf256_queries :
    reports .aesf256Keysize base 32 = true ∧ reports .aesf256Blocksize base 16 = true := by
  decide +kernel

/-- R190: the context of code 3 is keyed, and starts with the key. -/
theorem test_aest128_setkey :
    after (exec .aest128Setkey (withInput 0 16 key128)) (fun t => t.code == .ok &&
      t.ctx[3].keyed &&
      wordsBytes (t.ctx[3].k0.toList.take 4) == bytes 16 key128) = true := by
  decide +kernel

/-- R190: another key length changes nothing. -/
theorem test_aest128_setkey_len :
    raises .aest128Setkey (withInput 0 15 0) .errLen = true ∧
      raises .aest128Setkey (withInput 0 17 0) .errLen = true := by
  decide +kernel

/-- R191. -/
theorem test_aest128_enc :
    writes .aest128Enc (withKey .tiny128 key128 plain)
      16 cipher128 = true := by
  decide +kernel

/-- R192. -/
theorem test_aest128_dec :
    writes .aest128Dec (withKey .tiny128 key128 cipher128)
      16 plain = true := by
  decide +kernel

/-- R191, R192: without a key. -/
theorem test_aest128_nokey :
    raises .aest128Enc base .errNoKey = true ∧ raises .aest128Dec base .errNoKey = true := by
  decide +kernel

/-- R193. -/
theorem test_aest128_clear :
    after (exec .aest128Clear (setCtx .tiny128 ⟨true, Vector.replicate 15 (block 1), Vector.replicate 15 (block 2),
      Vector.replicate 8 ⟨1, 2, 3, 4⟩, Vector.replicate 8 ⟨5, 6, 7, 8⟩⟩ base)) (fun t => t == base) = true := by
  decide +kernel

/-- R194, R195. -/
theorem test_aest128_queries :
    reports .aest128Keysize base 16 = true ∧ reports .aest128Blocksize base 16 = true := by
  decide +kernel

/-- R196: the context of code 4 is keyed, and starts with the key. -/
theorem test_aest256_setkey :
    after (exec .aest256Setkey (withInput 0 32 key256)) (fun t => t.code == .ok && t.ctx[4].keyed &&
      wordsBytes (t.ctx[4].k0.toList.take 8) == bytes 32 key256) = true := by
  decide +kernel

/-- R196: another key length changes nothing. -/
theorem test_aest256_setkey_len :
    raises .aest256Setkey (withInput 0 31 0) .errLen = true ∧
      raises .aest256Setkey (withInput 0 33 0) .errLen = true := by
  decide +kernel

/-- R197. -/
theorem test_aest256_enc :
    writes .aest256Enc (withKey .tiny256 key256 plain)
      16 cipher256 = true := by
  decide +kernel

/-- R198. -/
theorem test_aest256_dec :
    writes .aest256Dec (withKey .tiny256 key256 cipher256)
      16 plain = true := by
  decide +kernel

/-- R197, R198: without a key. -/
theorem test_aest256_nokey :
    raises .aest256Enc base .errNoKey = true ∧ raises .aest256Dec base .errNoKey = true := by
  decide +kernel

/-- R199. -/
theorem test_aest256_clear :
    after (exec .aest256Clear (setCtx .tiny256 ⟨true, Vector.replicate 15 (block 1), Vector.replicate 15 (block 2),
      Vector.replicate 8 ⟨1, 2, 3, 4⟩, Vector.replicate 8 ⟨5, 6, 7, 8⟩⟩ base)) (fun t => t == base) = true := by
  decide +kernel

/-- R200, R201. -/
theorem test_aest256_queries :
    reports .aest256Keysize base 32 = true ∧ reports .aest256Blocksize base 16 = true := by
  decide +kernel

/-- R202: the context of code 5 is keyed, and starts with the key. -/
theorem test_aess128_setkey :
    after (exec .aess128Setkey (withInput 0 16 key128)) (fun t => t.code == .ok &&
      t.ctx[5].keyed &&
      wordsBytes (t.ctx[5].k0.toList.take 4) == bytes 16 key128) = true := by
  decide +kernel

/-- R202: another key length changes nothing. -/
theorem test_aess128_setkey_len :
    raises .aess128Setkey (withInput 0 15 0) .errLen = true ∧
      raises .aess128Setkey (withInput 0 17 0) .errLen = true := by
  decide +kernel

/-- R203. -/
theorem test_aess128_enc :
    writes .aess128Enc (withKey .small128 key128 plain)
      16 cipher128 = true := by
  decide +kernel

/-- R204. -/
theorem test_aess128_dec :
    writes .aess128Dec (withKey .small128 key128 cipher128)
      16 plain = true := by
  decide +kernel

/-- R203, R204: without a key. -/
theorem test_aess128_nokey :
    raises .aess128Enc base .errNoKey = true ∧ raises .aess128Dec base .errNoKey = true := by
  decide +kernel

/-- R205. -/
theorem test_aess128_clear :
    after (exec .aess128Clear (setCtx .small128 ⟨true, Vector.replicate 15 (block 1), Vector.replicate 15 (block 2),
      Vector.replicate 8 ⟨1, 2, 3, 4⟩, Vector.replicate 8 ⟨5, 6, 7, 8⟩⟩ base)) (fun t => t == base) = true := by
  decide +kernel

/-- R206, R207. -/
theorem test_aess128_queries :
    reports .aess128Keysize base 16 = true ∧ reports .aess128Blocksize base 16 = true := by
  decide +kernel

/-- R208: the context of code 6 is keyed, and starts with the key. -/
theorem test_aess256_setkey :
    after (exec .aess256Setkey (withInput 0 32 key256)) (fun t => t.code == .ok && t.ctx[6].keyed &&
      wordsBytes (t.ctx[6].k0.toList.take 8) == bytes 32 key256) = true := by
  decide +kernel

/-- R208: another key length changes nothing. -/
theorem test_aess256_setkey_len :
    raises .aess256Setkey (withInput 0 31 0) .errLen = true ∧
      raises .aess256Setkey (withInput 0 33 0) .errLen = true := by
  decide +kernel

/-- R209. -/
theorem test_aess256_enc :
    writes .aess256Enc (withKey .small256 key256 plain)
      16 cipher256 = true := by
  decide +kernel

/-- R210. -/
theorem test_aess256_dec :
    writes .aess256Dec (withKey .small256 key256 cipher256)
      16 plain = true := by
  decide +kernel

/-- R209, R210: without a key. -/
theorem test_aess256_nokey :
    raises .aess256Enc base .errNoKey = true ∧ raises .aess256Dec base .errNoKey = true := by
  decide +kernel

/-- R211. -/
theorem test_aess256_clear :
    after (exec .aess256Clear (setCtx .small256 ⟨true, Vector.replicate 15 (block 1), Vector.replicate 15 (block 2),
      Vector.replicate 8 ⟨1, 2, 3, 4⟩, Vector.replicate 8 ⟨5, 6, 7, 8⟩⟩ base)) (fun t => t == base) = true := by
  decide +kernel

/-- R212, R213. -/
theorem test_aess256_queries :
    reports .aess256Keysize base 32 = true ∧ reports .aess256Blocksize base 16 = true := by
  decide +kernel

/-! ### EAX (42_eax.md, the example lines: vector 2 of R254) -/

/-- The engine keyed with the key of vector 2, variant `v`. -/
def keyed (v : Variant) : Eax := eaxSetup v (words (bytes 16 0x91945d3f4dcbee0bf45ef52255f095a4))

/-- The engine after SETIV and AAD of vector 2. -/
def inSession : Eax :=
  macAbsorbAll (eaxStart (bytes 16 0xbecaf043b0a23d843194ba972c66debd) (keyed .tiny128)) (bytes 8 0xfa3bfd4806eb53fa)

/-- The engine after the ciphertext 19dd of vector 2. -/
def streamed : Eax := (streamRef true (closeAuth inSession) [0x19, 0xdd]).2

/-- `base` with an EAX context, and input as `withInput`. -/
def withEax (e : Eax) (n x : Nat) : State := { withInput 0 n x with eax := e }

/-- R240: the subkeys of vector 2. -/
theorem test_eaxSetkey :
    after (exec .eaxSetkey (withInput 0 16 0x91945d3f4dcbee0bf45ef52255f095a4)) (fun t => t.code == .ok &&
      t.eax.ph == .noIv &&
      t.eax.mac.k1 == block 0x22f1a6cc811b74516f5d62f892cfcdcc &&
      t.eax.mac.k2 == block 0x45e34d990236e8a2debac5f1259f9b98) = true := by
  decide +kernel

/-- R308: ARG.V = 7 with LEN = 3 reports ERR_ARG; then LEN; then the range. -/
theorem test_eaxSetkey_order :
    raises .eaxSetkey (withInput 7 3 0) .errArg = true ∧ raises .eaxSetkey (withInput 6 16 0) .errLen = true ∧
    raises .eaxSetkey { withInput 6 32 0 with src := 0xFF0 } .errRange = true := by
  decide +kernel

/-- R241: N of vector 2. -/
theorem test_eaxSetiv :
    after (exec .eaxSetiv (withEax (keyed .full128) 16 0xbecaf043b0a23d843194ba972c66debd)) (fun t => t.code == .ok &&
      t.eax.ph == .auth && t.eax.ctr == block 0x9fa5076fb1ade0c5bfe3e82b7e55ab1d && t.eax.tag == t.eax.ctr &&
      t.eax.posn == 16) = true := by
  decide +kernel

/-- R242: H of vector 2. -/
theorem test_eaxAad :
    after (exec .eaxAad
      (withEax (eaxStart (bytes 16 0xbecaf043b0a23d843194ba972c66debd) (keyed .small128)) 8 0xfa3bfd4806eb53fa))
      (fun t => t.code == .ok && macValue t.eax == block 0xe2a488b0bb52aba00b310f4097fbe6b6) = true := by
  decide +kernel

/-- R242: not before SETIV, and not after ENC. -/
theorem test_eaxAad_phase :
    raises .eaxAad (withEax (keyed .tiny128) 8 0) .errPhase = true ∧ raises .eaxAad base .errNoKey = true ∧
    raises .eaxAad (withEax { keyed .tiny128 with ph := .cipher } 8 0) .errPhase = true := by
  decide +kernel

/-- R244. -/
theorem test_eaxEnc : writes .eaxEnc (withEax inSession 2 0xf7fb) 2 0x19dd = true := by decide +kernel

/-- R244: LEN = 0 closes the header MAC and writes nothing. -/
theorem test_eaxEnc_empty :
    after (exec .eaxEnc (withEax inSession 0 0)) (fun t => t.code == .ok && t.dmem == [] && t.eax.ph == .cipher &&
      t.eax.hash == block 0xe2a488b0bb52aba00b310f4097fbe6b6) = true := by
  decide +kernel

/-- R245: the plaintext, and C of vector 2. -/
theorem test_eaxDec :
    after (exec .eaxDec (withEax inSession 2 0x19dd)) (fun t => t.code == .ok &&
      memRead t.dmem 0x200 2 == [0xf7, 0xfb] &&
      macValue t.eax == block 0x214d1cee0e6240bf04f593631fd72a4e) = true := by
  decide +kernel

/-- R247: the tag of vector 2. -/
theorem test_eaxTag : after (exec .eaxTag (withEax streamed 16 0)) (fun t => t.code == .ok && t.eax.ph == .done &&
      memRead t.dmem 0x200 16 == bytes 16 0x5c4c9331049d0bdab0277408f67967e5) = true := by decide +kernel

/-- R247: LEN = 4 writes four bytes. -/
theorem test_eaxTag_short :
    after (exec .eaxTag (withEax streamed 4 0)) (fun t => memRead t.dmem 0x200 5 == bytes 5 0x5c4c933100) = true := by
  decide +kernel

/-- R249: a match of 4 bytes. -/
theorem test_eaxChktag :
    after (exec .eaxChktag (withEax streamed 4 0x5c4c9331)) (fun t => t.code == .ok && t.result == 1 &&
      t.eax.ph == .done) = true := by
  decide +kernel

/-- R249: one wrong byte; LEN = 17 always mismatches. -/
theorem test_eaxChktag_mismatch :
    after (exec .eaxChktag (withEax streamed 16 0x5d4c9331049d0bdab0277408f67967e5))
      (fun t => t.code == .tagMismatch && t.result == 0 && t.eax.ph == .done) = true ∧
    after (exec .eaxChktag (withEax streamed 17 0x5c4c9331049d0bdab0277408f67967e500))
      (fun t => t.code == .tagMismatch) = true := by
  decide +kernel

/-- R250. -/
theorem test_eaxClear :
    after (exec .eaxClear { base with eax := { keyed .tiny128 with ph := .done, tag := block 5 } })
      (fun t => t == base) = true := by
  decide +kernel

/-- R251, R252, R253. -/
theorem test_eaxQueries :
    reports .eaxKeysize (withInput 2 0 0) 32 = true ∧ raises .eaxKeysize (withInput 7 0 0) .errArg = true ∧
    reports .eaxIvsize base 16 = true ∧ reports .eaxTagsize base 16 = true := by
  decide +kernel

/-! ### XTS (43_xts.md, the example lines: IEEE 1619 vectors 1 and 2) -/

/-- The engine in two-key mode with two keys, sector size 32 and an identifier set (as IEEE 1619 vectors). -/
def xtsOf (v : Variant) (key1 key2 id : Nat) : Xts :=
  let x := xtsSetup v false (words (bytes 16 key1 ++ bytes 16 key2)) 32
  { x with tw := pack (aesEnc x.twk v (blockOfBytes (bytes 16 id))), tweaked := true }

/-- `base` with an XTS context, and input as `withInput`. -/
def withXts (x : Xts) (n i : Nat) : State := { withInput 0 n i with xts := x }

/-- R274: 32 zero bytes in two-key mode, ERR_LEN in single-key mode, where 16 are taken. -/
theorem test_xtsSetkey :
    after (exec .xtsSetkey (withInput 0x003 32 5)) (fun t => t.code == .ok && t.xts.keyed && !t.xts.tweaked &&
      t.xts.sect == 512 &&
      t.xts.data.k0[3] == ⟨0, 0, 0, 0⟩ && t.xts.twk.k0[3] == ⟨0, 0, 0, 5⟩) = true ∧
    raises .xtsSetkey (withInput 0x100 32 0) .errLen = true ∧
    after (exec .xtsSetkey (withInput 0x103 16 5)) (fun t => t.code == .ok && t.xts.data.k0[3] == ⟨0, 0, 0, 5⟩ &&
      !t.xts.twk.keyed) = true := by
  decide +kernel

/-- R275: the tweak words. -/
theorem test_xtsSettweak :
    after (exec .xtsSettweak (withXts (xtsSetup .full128 false (words (bytes 32 0)) 32) 16 0))
      (fun t => t.code == .ok &&
      t.xts.tw == ⟨0xd44be966, 0x3b2c8aef, 0x59fa4c88, 0x2e2b34ca⟩ && t.xts.tweaked) = true := by
  decide +kernel

/-- R275, R308. -/
theorem test_xtsSettweak_len :
    raises .xtsSettweak (withXts (xtsOf .tiny128 0 0 0) 17 0) .errLen = true ∧
      raises .xtsSettweak (withInput 0 17 0) .errNoKey = true := by
  decide +kernel

/-- R276. -/
theorem test_xtsSetsect :
    after (exec .xtsSetsect (withInput 0 32 0)) (fun t => t.code == .ok && t.xts.sect == 32) = true ∧
    raises .xtsSetsect { base with len := 520 } .errLen = true ∧ raises .xtsSetsect (withInput 0 0 0) .errLen = true ∧
    raises .xtsSetsect { base with len := 4112 } .errLen = true := by
  decide +kernel

/-- R277. -/
theorem test_xtsGetsect : reports .xtsGetsect base 512 = true := by decide +kernel

/-- R278: vector 1. -/
theorem test_xtsEncsect : writes .xtsEncsect (withXts (xtsOf .full128 0 0 0) 32 0) 32
      0x917cf69ebd68b2ec9b9fe9a3eadda692cd43d2f59598ed858c02c2652fbf922e = true := by decide +kernel

/-- R308: no key before the range, then no tweak. -/
theorem test_xtsEncsect_order :
    raises .xtsEncsect { base with src := 0xFFFFFFFF } .errNoKey = true ∧
    raises .xtsEncsect { withXts (xtsSetup .tiny128 true (words (bytes 16 1)) 32) 0 0 with
      src := 0xFFFFFFFF } .errPhase = true := by
  decide +kernel

/-- R279: vector 2. -/
theorem test_xtsDecsect :
    writes .xtsDecsect (withXts (xtsOf .small128 0x11111111111111111111111111111111 0x22222222222222222222222222222222
        0x33333333330000000000000000000000) 32 0xc454185e6a16936e39334038acef838bfb186fff7480adc4289382ecd6d394f0) 32
      0x4444444444444444444444444444444444444444444444444444444444444444 = true := by
  decide +kernel

/-- R280: the sector size is kept. -/
theorem test_xtsClear :
    after (exec .xtsClear { base with xts := xtsOf .tiny128 1 2 3 })
      (fun t => t == { base with xts := Xts.cleared 32 }) = true := by
  decide +kernel

/-- R281, R282. -/
theorem test_xtsQueries :
    reports .xtsKeysize (withInput 0x002 0 0) 64 = true ∧ reports .xtsKeysize (withInput 0x102 0 0) 32 = true ∧
    raises .xtsKeysize (withInput 0x107 0 0) .errArg = true ∧ reports .xtsTweaksize base 16 = true := by
  decide +kernel

/-! ### The host port, reset and the assembler -/

/-- R87, R301: CMD = 0x100. -/
theorem test_issue_reserved :
    after (issue 0x100 base) (fun t => t == { base with cmd := 0x100, code := .errOpc }) = true := by
  decide +kernel

/-- R31. -/
theorem test_statusWord : statusWord { base with code := .errOpc, busy := true } = 0x00000108 := by decide +kernel

/-- R33: a reserved offset reads as zero and ignores a write. -/
theorem test_reserved_slot :
    readSlot 0x1C { base with result := 5 } = 0 ∧ after (writeSlot 0xFC 5 base) (fun t => t == base) = true := by
  decide +kernel

/-- R24, R64: a CMD write by its host address runs the command; the window ends after 256 bytes. -/
theorem test_host_address :
    after (step { base with actions := [.bus (.writeReg 32 0x40000000 0x89)] }) (fun t => t.result == 16) = true ∧
    portAction base.params (.bus (.readReg 32 0x40000018)) = .readReg 32 0x18 ∧
    portAction base.params (.bus (.writeMem 0x80000200 [7])) = .writeMem 0x200 [7] ∧
    windowOffset base.params 0x40000100 = none ∧ windowOffset base.params 0x3FFFFFFF = none ∧
    dmemAddress base.params 0x7FFFFFFF = none := by
  decide +kernel

/-- R9: REG_BASE is a multiple of 4. -/
theorem test_params_wf : base.params.wf = true ∧ ({ base.params with regBase := 2 } : Params).wf = false := by decide

/-- R331: the platform's reset, DMEM contents from outside. -/
theorem test_reset_action :
    after (step { base with
        actions := [.reset [(3, 7), (0x1000, 1)]], src := 5, busy := true, eax := keyed .tiny128 }) (fun t => t == { base with dmem := [(3, 7)] }) = true := by
  decide +kernel

/-- R94: the second example. -/
theorem test_assemble_gmul : assemble { instr := .gmul, arg := .fields (some 0x57) (some 0x83) none none } =
      [.writeReg 32 0x10 0x00008357, .writeReg 32 0x00 0x00000013] := by decide

/-- R94: the first example. -/
theorem test_assemble_enc : assemble { instr := .aesf128Enc, src := some 0x100, dst := some 0x200 } =
      [.writeReg 32 0x04 0x100, .writeReg 32 0x08 0x200, .writeReg 32 0x00 0x41] := by decide

/-- R94: the third example. -/
theorem test_assemble_xts :
    assemble { instr := .xtsSetkey, src := some 0, len := some 32, arg := .fields none none (some 0) (some false) } =
      [.writeReg 32 0x04 0, .writeReg 32 0x0C 32, .writeReg 32 0x10 0, .writeReg 32 0x00 0xA0] := by
  decide

/-- R95: the commands of one round. -/
theorem test_expand_round : (expand (.aesRound 0x10 0x20)).map (fun c => c.instr) = [.sbsr, .mixc, .ark] := by decide

/-! ### Witnesses: for each statement with hypotheses, a state and operands that meet them all -/

/-- `base` with the run `as` to come. -/
def withRun (as : List HostAction) : State := { base with actions := as }

theorem witness_ReservedWordRaisesErrOpc :
    (withRun [.writeReg 32 0x00 0x00000100]).busy = false ∧
    (withRun [.writeReg 32 0x00 0x00000100]).actions = .writeReg 32 0x00 0x00000100 :: [] ∧
    wordWellFormed 0x00000100 = false := by decide

theorem witness_StepRunsTheDecodedCommand :
    (withRun [.writeReg 32 0x00 0x41]).busy = false ∧
    (withRun [.writeReg 32 0x00 0x41]).actions = .writeReg 32 0x00 0x41 :: [] ∧
      decode 0x41 = .ok .aesf128Enc := by decide

/-- The first and the last slot of each clause. -/
theorem witness_RegisterWindow :
    base.busy = false ∧
    (withRun [.readReg 32 0x00]).actions = .readReg 32 0x00 :: [] ∧ (0x00 : BitVec 8).toNat % 4 = 0 ∧
    (withRun [.readReg 32 0xFC]).actions = .readReg 32 0xFC :: [] ∧ (0xFC : BitVec 8).toNat % 4 = 0 ∧
    (withRun [.writeReg 32 0x04 9]).actions = .writeReg 32 0x04 9 :: [] ∧ (0x04 : BitVec 8) ≠ 0x00 ∧
    (withRun [.writeReg 32 0xFC 9]).actions = .writeReg 32 0xFC 9 :: [] ∧ (0xFC : BitVec 8) ≠ 0x00 := by decide

/-- Host addresses: the first and the last slot of the window, and DMEM from DMEM_BASE on. -/
theorem witness_host_addresses :
    (withRun [.bus (.readReg 32 0x40000000)]).actions =
      .bus (.readReg 32 (base.params.regBase + (0x00 : BitVec 8).toNat)) :: [] ∧
    (withRun [.bus (.writeReg 16 0x400000FC 9)]).actions =
      .bus (.writeReg 16 (base.params.regBase + (0xFC : BitVec 8).toNat) 9) :: [] ∧
    (withRun [.bus (.readMem 0x80000000 1)]).actions = .bus (.readMem (base.params.dmemBase + 0) 1) :: [] ∧
    (withRun [.bus (.writeMem 0x80000FFF [7])]).actions = .bus (.writeMem (base.params.dmemBase + 0xFFF) [7]) :: [] := by
  decide

theorem witness_OtherRegisterAccessIsRefused :
    base.busy = false ∧ ((31 : Nat) ≠ 32 ∨ (0x04 : BitVec 8).toNat % 4 ≠ 0) ∧
    ((32 : Nat) ≠ 32 ∨ (0x03 : BitVec 8).toNat % 4 ≠ 0) ∧
    (withRun [.readReg 31 0x04]).actions = .readReg 31 0x04 :: [] ∧
    (withRun [.writeReg 32 0x03 9]).actions = .writeReg 32 0x03 9 :: [] := by decide

/-- The last two bytes of DMEM. -/
theorem witness_HostDmemReadAfterWrite :
    (withRun [.writeMem 0xFFE [1, 2], .readMem 0xFFE 2]).busy = false ∧ base.dmem.wf = true ∧
    0xFFE + ([1, 2] : List Byte).length ≤ base.params.dmemSize ∧
    (withRun [.writeMem 0xFFE [1, 2], .readMem 0xFFE 2]).actions =
      .writeMem 0xFFE [1, 2] :: .readMem 0xFFE ([1, 2] : List Byte).length :: [] := by decide

/-- `base` with BUSY = 1 and one action to come. -/
def busyWith (a : HostAction) : State := { withRun [a] with busy := true }

/-- An access of each kind at the port, the offsets next to STATUS among them; the same by host addresses; STATUS itself;
a read of it of another width; a reset. -/
theorem witness_HostAccessWhileBusyHasNoStep :
    (busyWith (.readReg 32 0x18)).busy = true ∧
    (busyWith (.writeReg 32 0x14 5)).actions = .writeReg 32 0x14 5 :: [] ∧
    (busyWith (.readMem 0 0)).actions = .readMem 0 0 :: [] ∧ (busyWith (.writeMem 0 [])).actions = .writeMem 0 [] :: [] ∧
    (busyWith (.readReg 32 0x13)).actions = .readReg 32 0x13 :: [] ∧ (0x13 : BitVec 8) ≠ 0x14 ∧
    (busyWith (.bus (.readReg 32 0x40000018))).actions = .bus (.readReg 32 0x40000018) :: [] ∧
    0x40000018 ≠ base.params.regBase + 0x14 ∧ 0x40000014 = base.params.regBase + 0x14 ∧
    (busyWith (.bus (.readReg 32 0x40000014))).actions = .bus (.readReg 32 0x40000014) :: [] ∧
    (busyWith (.readReg 32 0x14)).actions = .readReg 32 0x14 :: [] ∧ (31 : Nat) ≠ 32 ∧
    (busyWith (.readReg 31 0x14)).actions = .readReg 31 0x14 :: [] ∧
    (busyWith (.reset [])).actions = .reset [] :: [] := by decide

theorem witness_ResetLeavesTheResetValues :
    (withRun [.reset [(0, 1)]]).actions = .reset [(0, 1)] :: [] := by decide

/-- For the statements whose hypothesis is that a command answers a next state. -/
theorem witness_command_answers :
    after (exec .mixc (withInput 0 16 1)) (fun _ => true) = true ∧
      after (exec .eaxSetiv base) (fun _ => true) = true ∧
    ∃ t, exec .nop base = .next t := ⟨by decide +kernel, by decide +kernel, _, rfl⟩

/-- NOP writes no RESULT; EAX.KEYSIZE with ARG.V = 7 raises. -/
theorem witness_ResultIsKeptByOtherCommands :
    writesResult .nop = false ∧ writesResult .eaxKeysize = true ∧
      raises .eaxKeysize (withInput 7 0 0) .errArg = true := by
  decide +kernel

/-- A primitive; and a variant command beside other contexts that agree with its own. -/
theorem witness_CommandsUseNoOtherContext :
    ownerOf .mixc = .none ∧ ownerOf .aest128Clear = .aes .tiny128 ∧
    (∀ v, ownerOf .aest128Clear = .aes v → ctxOf v { base with eax := keyed .tiny128 } = ctxOf v base) ∧
    ownerOf .aest128Clear ≠ .eax ∧ ownerOf .aest128Clear ≠ .xts ∧ ∃ t, exec .aest128Clear base = .next t :=
  ⟨rfl, rfl, fun _ _ => rfl, by decide, by decide, _, rfl⟩

/-- XTS.SETKEY reads ARG.V and ARG.M: all other bits of ARG, and DST, may differ. -/
theorem witness_UnlistedRegistersHaveNoEffect :
    readsSrc (formatOf .xtsSetkey) = true ∧ readsDst (formatOf .xtsSetkey) = false ∧
    readsLen (formatOf .xtsSetkey) = true ∧
    (0xFFFFFEFB : Word) &&& argMask (formatOf .xtsSetkey) = (withInput 0x003 32 0).arg &&& argMask (formatOf .xtsSetkey) := by
  decide

/-- One state for each first error, and one without. -/
theorem witness_ChecksAreMadeInOrder :
    firstError .rcon (withInput 11 0 0) = some .errArg ∧ firstError .aesf128Enc base = some .errNoKey ∧
    firstError .eaxTag (withEax (keyed .tiny128) 16 0) = some .errPhase ∧
    firstError .aess256Setkey (withInput 0 31 0) = some .errLen ∧
    firstError .ark { base with src := 0xFF1 } = some .errRange ∧ firstError .ark { base with src := 0xFF0 } = none ∧
    firstError .nop base = none := by decide +kernel

/-- For the block, word and window commands: DMEM canonical, both ranges at the end of DMEM, the last round index. -/
theorem witness_primitive_ranges :
    (withInput 10 16 1).dmem.wf = true ∧ inRange base.params 0xFF0 16 = true ∧ inRange base.params 0xFFC 4 = true ∧
    inRange base.params 0xFE8 24 = true ∧ inRange base.params 0xFE0 32 = true ∧ inRange base.params 0xFE1 32 = false ∧
    (argA (withInput 10 16 1)).toNat = 10 ∧ (argA (withInput 1 16 1)).toNat = 1 := by decide +kernel

theorem witness_ArkAddsTheKeyBlock :
    ({ withInput 0 16 1 with dst := 0x100 } : State).src = ({ withInput 0 16 1 with dst := 0x100 } : State).dst ∧
    (withInput 0 16 1).dmem.wf = true ∧ inRange base.params 0x100 16 = true := by decide +kernel

/-- RCON: the first and the last index, and the first refused on either side. -/
theorem witness_ByteCommandsReportTheByte :
    (argA (withInput 1 0 0)).toNat = 0 + 1 ∧ (argA (withInput 10 0 0)).toNat = 9 + 1 ∧
    (argA (withInput 0x100 0 0)).toNat = 0 ∧ 10 < (argA (withInput 11 0 0)).toNat := by decide

theorem witness_FieldAndTablesMeetTheirDefinitions : gmul 0x53 0xCA = 0x01 ∧ (0x53 : Byte) ≠ 0 ∧
    ginv 0x53 = 0xCA := by
  decide +kernel

/-- A list of `n` words. -/
def someWords (n : Nat) : List Quad := (List.range n).map fun i => ⟨BitVec.ofNat 8 i, 1, 2, 3⟩

theorem witness_KeyStepsUndoEachOther :
    (someWords 4).length = 4 ∧ (someWords 6).length = 6 ∧ (someWords 8).length = 8 := by decide

/-- A command and its window length, for each of the three. -/
theorem witness_window_commands :
    (Instr.kstep128, 4) ∈ [(Instr.kstep128, 4), (.kstep192, 6), (.kstep256, 8)] ∧
    (Instr.kstep192, 6) ∈ [(Instr.kstep128, 4), (.kstep192, 6), (.kstep256, 8)] ∧
    (Instr.ikstep256, 8) ∈ [(Instr.ikstep128, 4), (.ikstep192, 6), (.ikstep256, 8)] := by decide

/-- A key of each tier, and a pair of variants with one key size. -/
theorem witness_variant_keys :
    (someWords 6).length = keyWords .full192 ∧ tier .full192 = .full ∧ (someWords 8).length = keyWords .tiny256 ∧
    tier .tiny256 = .tiny ∧ (someWords 4).length = keyWords .small128 ∧ tier .small128 = .small ∧
    keyBytes .full256 = keyBytes .small256 := by decide

/-- The key at the end of DMEM. -/
theorem witness_SetkeyKeysTheContext :
    (withInput 0 24 1).len.toNat = keyBytes .full192 ∧
      inRange base.params 0xFE8 (keyBytes .full192) = true := by decide

theorem witness_EncAndDecWriteTheBlock :
    (ctxOf .tiny128 (withKey .tiny128 1 2)).keyed = true ∧
    inRange (withKey .tiny128 1 2).params (withKey .tiny128 1 2).src.toNat 16 = true ∧
    inRange (withKey .tiny128 1 2).params (withKey .tiny128 1 2).dst.toNat 16 = true := by decide +kernel

/-- The first and the last variant code. -/
theorem witness_EaxSetkeyKeysTheEngine :
    variantOfCode (argV (withInput 0 16 1)) = some .full128 ∧ (withInput 0 16 1).len.toNat = keyBytes .full128 ∧
    variantOfCode (argV (withInput 6 32 1)) = some .small256 ∧ (withInput 6 32 1).len.toNat = keyBytes .small256 ∧
    inRange (withInput 6 32 1).params (withInput 6 32 1).src.toNat (withInput 6 32 1).len.toNat = true
      := by decide +kernel

/-- An engine keyed by EAX.SETKEY, also in a session. -/
theorem witness_SubkeysDerived : SubkeysDerived (keyed .tiny128) ∧ SubkeysDerived inSession :=
  ⟨⟨rfl, rfl⟩, by unfold SubkeysDerived; decide +kernel⟩

/-- A nonce of no bytes, anywhere, and one of sixteen. -/
theorem witness_EaxSetivStartsASession :
    (withEax (keyed .tiny128) 16 1).eax.ph ≠ .noKey ∧
    inRange base.params (withEax (keyed .tiny128) 16 1).src.toNat 16 = true ∧
      inRange base.params 0xFFFFFFFF 0 = true := by
  decide +kernel

/-- In AUTH, with data and with none. -/
theorem witness_EaxAadAbsorbsTheData :
    (withEax inSession 8 1).eax.ph = .auth ∧ inRange base.params 0x100 8 = true ∧ (withEax inSession 0 0).len = 0 ∧
    inRange base.params 0x100 0 = true := by decide +kernel

/-- In AUTH and in CIPHER; ranges that are the same, that touch, and that overlap. -/
theorem witness_eax_streams :
    (withEax inSession 2 1).eax.ph = .auth ∧ (withEax streamed 2 1).eax.ph = .cipher ∧
    (withEax streamed 2 1).dmem.wf = true ∧ inRange base.params 0x100 2 = true ∧ inRange base.params 0x200 2 = true ∧
    sameOrDisjoint 0x100 0x100 2 = true ∧ sameOrDisjoint 0x100 0x102 2 = true ∧ sameOrDisjoint 0x102 0x100 2 = true ∧
    sameOrDisjoint 0x100 0x101 2 = false := by decide +kernel

/-- A used-up keystream block; the first byte of the second block. -/
theorem witness_KeystreamEncryptsTheCounter : inSession.posn = 16 ∧ (16 : Nat) < 17 := by decide +kernel

/-- In AUTH, CIPHER and DONE; a tag of sixteen bytes at the end of DMEM. -/
theorem witness_EaxTagWritesTheTag :
    inSession.ph ≠ .noKey ∧ inSession.ph ≠ .noIv ∧ (finalize streamed).ph = .done ∧
    inRange base.params 0xFF0 (min 17 16) = true := by decide +kernel

/-- Lengths 1 and 16 that match; 0 and 17, and a wrong byte. -/
theorem witness_EaxChktagComparesTheTag :
    streamed.ph ≠ .noKey ∧ streamed.ph ≠ .noIv ∧ inRange base.params 0x100 (min 17 16) = true ∧
    memRead (withEax streamed 1 0x5c).dmem 0x100 1 = (blockBytes (finalize streamed).tag).take 1 ∧
    memRead (withEax streamed 16 0x5c4c9331049d0bdab0277408f67967e5).dmem 0x100 16 =
      (blockBytes (finalize streamed).tag).take 16 ∧
    ¬(1 ≤ (withEax streamed 0 0).len.toNat) ∧ ¬((withEax streamed 17 0).len.toNat ≤ 16) ∧
    memRead (withEax streamed 1 0x5d).dmem 0x100 1 ≠ (blockBytes (finalize streamed).tag).take 1 := by decide +kernel

/-- ARG.V of the queries: the last accepted and the reserved one. -/
theorem witness_query_variants :
    variantOfCode (argV (withInput 6 0 0)) = some .small256 ∧ variantOfCode (argV (withInput 0 0 0)) = some .full128 ∧
    (argV (withInput 7 0 0)).toNat = 7 := by decide

/-- Both key modes. -/
theorem witness_XtsSetkeyKeysTheEngine :
    variantOfCode (argV (withInput 0x003 32 1)) = some .tiny128 ∧ argM (withInput 0x003 32 1) = false ∧
    (withInput 0x003 32 1).len.toNat = 2 * keyBytes .tiny128 ∧
    variantOfCode (argV (withInput 0x106 32 1)) = some .small256 ∧ argM (withInput 0x106 32 1) = true ∧
    (withInput 0x106 32 1).len.toNat = keyBytes .small256 ∧ inRange base.params 0x100 32 = true := by decide +kernel

/-- Identifiers of 0 and 16 bytes. -/
theorem witness_XtsSettweakStoresTheTweak :
    (withXts (xtsOf .tiny128 1 2 3) 16 4).xts.keyed = true ∧ (withXts (xtsOf .tiny128 1 2 3) 16 4).len.toNat ≤ 16 ∧
    inRange base.params 0x100 16 = true ∧ (withXts (xtsOf .tiny128 1 2 3) 0 0).len.toNat ≤ 16 := by decide +kernel

/-- The smallest and the largest sector size, and the refused ones next to them. -/
theorem witness_XtsSectorSizeCommands :
    (0 < (16 : Word).toNat ∧ (16 : Word).toNat % 16 = 0 ∧ (16 : Word).toNat ≤ base.params.sectorMax) ∧
    (0 < (4096 : Word).toNat ∧ (4096 : Word).toNat % 16 = 0 ∧ (4096 : Word).toNat ≤ base.params.sectorMax) ∧
    ¬(0 < (0 : Word).toNat) ∧ ¬((4112 : Word).toNat ≤ base.params.sectorMax) ∧
      ¬((17 : Word).toNat % 16 = 0) := by decide

/-- A sector of two blocks; its last block; ranges that are the same and that touch. -/
theorem witness_xts_sectors :
    (xtsOf .tiny128 1 2 3).keyed = true ∧ (xtsOf .tiny128 1 2 3).tweaked = true ∧
      (xtsOf .tiny128 1 2 3).sect.toNat = 32 ∧
    (withXts (xtsOf .tiny128 1 2 3) 32 4).dmem.wf = true ∧ inRange base.params 0x100 32 = true ∧
    inRange base.params 0xFE0 32 = true ∧ sameOrDisjoint 0x100 0x100 32 = true ∧
      sameOrDisjoint 0x100 0x120 32 = true ∧
    16 * (1 + 1) ≤ (xtsOf .tiny128 1 2 3).sect.toNat := by decide +kernel

theorem witness_XtsDecryptionUndoesEncryption :
    (someWords 4).length = keyWords (xtsSetup .tiny128 true (someWords 4) 512).v ∧
    (xtsSetup .tiny128 true (someWords 4) 512).data = aesSetup .tiny128 (someWords 4) := by decide +kernel

/-- A run that writes DMEM: a host write of its last byte. -/
theorem witness_StepKeepsDmemInRange :
    DmemInv { withInput 0 16 7 with actions := [.writeMem 0xFFF [1]] } ∧
    ∃ t, step { withInput 0 16 7 with actions := [.writeMem 0xFFF [1]] } = .next t :=
  ⟨⟨by decide +kernel, by decide +kernel⟩, _, rfl⟩

/-- A keyed context beside six cleared ones, and a CLEAR to come. -/
theorem witness_StepKeepsContextsRegenerable :
    CtxInv { setCtx .tiny128 (aesSetup .tiny128 (someWords 4)) base with actions := [.writeReg 32 0x00 0x5B] } ∧
    ∃ t, step { setCtx .tiny128 (aesSetup .tiny128 (someWords 4)) base with
      actions := [.writeReg 32 0x00 0x5B] } = .next t := by
  refine ⟨fun v => ?_, _, rfl⟩
  cases v
  case tiny128 => exact Or.inr ⟨someWords 4, by decide, by decide +kernel⟩
  all_goals exact Or.inl (by decide +kernel)

/-- A keyed engine in CIPHER, and EAX.CLEAR to come. -/
theorem witness_StepKeepsTheEaxInvariant :
    EaxInv { withEax streamed 2 1 with actions := [.writeReg 32 0x00 0x87] } ∧
    ∃ t, step { withEax streamed 2 1 with actions := [.writeReg 32 0x00 0x87] } = .next t := by
  refine ⟨⟨Or.inr ⟨words (bytes 16 0x91945d3f4dcbee0bf45ef52255f095a4), by decide +kernel,
    by decide +kernel⟩, ?_⟩, _, rfl⟩
  unfold SubkeysDerived
  decide +kernel

/-- A keyed engine with a tweak, and XTS.SETSECT to come. -/
theorem witness_StepKeepsTheXtsInvariant :
    XtsInv { withXts (xtsOf .tiny128 1 2 3) 16 1 with actions := [.writeReg 32 0x00 0xA2] } ∧
    ∃ t, step { withXts (xtsOf .tiny128 1 2 3) 16 1 with actions := [.writeReg 32 0x00 0xA2] } = .next t := by
  refine ⟨⟨by decide +kernel, Or.inr ⟨words (bytes 16 1), by decide +kernel, by decide +kernel⟩,
    Or.inr ⟨words (bytes 16 2), by decide +kernel, by decide +kernel⟩, ?_⟩, _, rfl⟩
  decide +kernel

theorem witness_StepEndsWithBusyClear : base.busy = false ∧ ∃ t, step (withRun [.writeReg 32 0x00 0x00]) = .next t :=
  ⟨rfl, _, rfl⟩

end Sys2Proof.Tests
end

namespace Sys2Proof.Machine

open Host.Outcome

/-! ### Writes that stay inside a range of DMEM (20_memory.md R66; 30_encoding.md R88) -/

/-- `m'` is `m` after writes that all lie in the `n` bytes from `lo` on. -/
inductive WritesWithin (lo n : Nat) (m : Memory) : Memory → Prop
  | refl : WritesWithin lo n m m
  | store {m' : Memory} {a : Nat} {bs : List Byte} : WritesWithin lo n m m' → lo ≤ a → a + bs.length ≤ lo + n →
      WritesWithin lo n m (memWrite m' a bs)

theorem WritesWithin.read_outside {lo n : Nat} {m m' : Memory} (h : WritesWithin lo n m m') {a : Nat}
    (ha : a < lo ∨ lo + n ≤ a) : m'.read a = m.read a := by
  induction h with
  | refl => rfl
  | store _ hlo hhi ih => rw [memWrite_read_outside _ _ _ _ (by omega), ih]

theorem WritesWithin.keeps_wf {lo n : Nat} {m m' : Memory} (h : WritesWithin lo n m m') (hm : m.wf = true) :
    m'.wf = true := by
  induction h with
  | refl => exact hm
  | store _ _ _ ih => exact memWrite_wf _ _ _ ih

theorem WritesWithin.keeps_below {p : Params} {lo n : Nat} {m m' : Memory} (h : WritesWithin lo n m m')
    (hr : inRange p lo n = true) (hm : m.below p.dmemSize = true) : m'.below p.dmemSize = true := by
  induction h with
  | refl => exact hm
  | @store m' a bs _ hlo hhi ih =>
    refine memWrite_below _ _ _ _ ?_ ih
    rcases (inRange_iff p lo n).1 hr with hn | hn
    · exact .inr (List.eq_nil_of_length_eq_zero (by omega))
    · exact .inl (by omega)

/-- The bytes `i` to `i + n` of a stream are written inside any range at DST that reaches so far. -/
theorem streamBytes_writesWithin (d : Bool) (size : Nat) (m : Memory) : ∀ (n i : Nat) (s : State), i + n ≤ size →
    WritesWithin s.dst.toNat size m s.dmem → WritesWithin s.dst.toNat size m (streamBytes d n i s).dmem
  | 0, _, _, _, hm => hm
  | n + 1, i, s, hi, hm =>
    streamBytes_writesWithin d size m n (i + 1) (streamByte d i s) (by omega)
      (hm.store (a := s.dst.toNat + i) (bs := [s.dmem.read (s.src.toNat + i) ^^^ (ksNext s.eax).1])
        (by omega) (by simp only [List.length_singleton]; omega))

/-- The blocks `k` to `k + n` of a sector are written inside any range at DST that reaches so far. -/
theorem sectorBlocks_writesWithin (f : Block → Block → Block) (size : Nat) (m : Memory) :
    ∀ (n k : Nat) (T : Block) (s : State), 16 * (k + n) ≤ size →
      WritesWithin s.dst.toNat size m s.dmem → WritesWithin s.dst.toNat size m (sectorBlocks f n k T s).dmem
  | 0, _, _, _, _, hm => hm
  | n + 1, k, T, s, hk, hm => by
    have hstore : ∀ B : Block,
        WritesWithin s.dst.toNat size m (memWrite s.dmem (s.dst.toNat + 16 * k) (blockBytes B)) :=
      fun B => hm.store (by omega) (by rw [blockBytes_length]; omega)
    rw [sectorBlocks]
    generalize f T _ = B
    exact sectorBlocks_writesWithin f size m n (k + 1) (dblLe T)
      { s with dmem := memWrite s.dmem (s.dst.toNat + 16 * k) (blockBytes B) } (by omega) (hstore B)

/-- The range a format writes is none, or one of those it checks, so a passed check puts it inside DMEM (R88). -/
theorem inRange_formatWrites {f : Format} {s : State} (h : operandsInRange f s = true) :
    inRange s.params s.dst.toNat (formatWrites f s) = true := by
  cases f <;> simp_all [operandsInRange, rangesOk, formatRanges, formatWrites, inRange_iff]

/-! ### The checks of a command (60_exceptions.md R308) -/

/-- The range check of R308 is the one the commands make. -/
theorem rangeFails_eq (i : Instr) (s : State) : rangeFails i s = !operandsInRange (formatOf i) s := by
  simp only [rangeFails, operandsInRange, rangesOk, List.not_all_eq_any_not]
  congr 1
  funext r
  rw [Bool.eq_iff_iff]
  simp [inRange]

/-- The outcomes of the checks of command `i` that come before its ranges: ARG, key, phase, LEN. -/
structure Checks (i : Instr) (s : State) (arg key phase len : Bool) : Prop where
  arg : argFails i s = arg
  key : noKeyFails i s = key
  phase : phaseFails i s = phase
  len : lenFails i s = len

theorem Checks.firstError_eq {i : Instr} {s : State} {a k p l : Bool} (h : Checks i s a k p l) :
    firstError i s =
      if a then some .errArg else if k then some .errNoKey else if p then some .errPhase else if l then some .errLen
      else if operandsInRange (formatOf i) s then none else some .errRange := by
  rw [firstError, h.arg, h.key, h.phase, h.len, rangeFails_eq]
  cases operandsInRange (formatOf i) s <;> rfl

/-- A command that passes its checks has its ranges in DMEM (R66). -/
theorem operandsInRange_of_firstError {i : Instr} {s : State} (h : firstError i s = none) :
    operandsInRange (formatOf i) s = true := by
  unfold firstError at h
  split_ifs at h with _ _ _ _ hr
  simpa [rangeFails_eq] using hr

/-- A round index is refused exactly when ARG.A is outside 1 … 10 (R89). -/
theorem roundIndex_isNone (s : State) :
    (roundIndex s).isNone = (decide ((argA s).toNat < 1) || decide (10 < (argA s).toNat)) := by
  rw [roundIndex, Bool.eq_iff_iff]
  split_ifs with h <;> simp <;> omega

/-- ARG.V selects a variant exactly when its code is not 7 (R30). -/
theorem argVariant_isNone (s : State) : (argVariant s).isNone = ((argV s).toNat == 7) := by
  simp only [argVariant]
  generalize argV s = c
  revert c
  decide

/-! ### Everything a command can do (60_exceptions.md R307, R308) -/

/-- What command `i` does to `s` once it has passed its checks: one constructor per way to complete. -/
inductive Completes (s : State) : Instr → State → Prop
  | nop : Completes s .nop (complete s)
  /-- The queries and the byte functions. -/
  | report {i : Instr} (v : Word) : writesResult i = true → Completes s i (complete (setResult v s))
  /-- The primitives and the ciphers on blocks, words and windows in DMEM. -/
  | store {i : Instr} {bs : List Byte} : bs.length = formatWrites (formatOf i) s →
      Completes s i (complete (writeDst bs s))
  | setKey (v : Variant) {K : List Quad} : K.length = keyWords v →
      Completes s (setkeyOf v) (complete (setCtx v (aesSetup v K) s))
  | clear (v : Variant) : Completes s (clearOf v) (complete (setCtx v AesCtx.cleared s))
  | eaxSetkey (v : Variant) {K : List Quad} : K.length = keyWords v →
      Completes s .eaxSetkey (complete { s with eax := eaxSetup v K })
  | eaxSetiv : s.eax.ph ≠ .noKey →
      Completes s .eaxSetiv (complete { s with eax := eaxStart (readSrc s.len.toNat s) s.eax })
  | eaxAad : s.eax.ph = .auth →
      Completes s .eaxAad (complete { s with eax := macAbsorbAll s.eax (readSrc s.len.toNat s) })
  | stream {i : Instr} (d : Bool) : formatOf i = .stream → s.eax.ph = .auth ∨ s.eax.ph = .cipher →
      Completes s i (complete (streamBytes d s.len.toNat 0 { s with eax := closeAuth s.eax }))
  | eaxTag : s.eax.ph ≠ .noKey → s.eax.ph ≠ .noIv →
      Completes s .eaxTag (complete
        (writeDst ((blockBytes (finalize s.eax).tag).take (tagBytes s)) { s with eax := finalize s.eax }))
  | eaxMatch : s.eax.ph ≠ .noKey → s.eax.ph ≠ .noIv →
      Completes s .eaxChktag (complete (setResult 1 { s with eax := finalize s.eax }))
  | eaxMismatch : s.eax.ph ≠ .noKey → s.eax.ph ≠ .noIv →
      Completes s .eaxChktag { complete (setResult 0 { s with eax := finalize s.eax }) with code := .tagMismatch }
  | eaxClear : Completes s .eaxClear (complete { s with eax := Eax.cleared })
  | xtsSetkey (v : Variant) {K : List Quad} : K.length = (if argM s then keyWords v else 2 * keyWords v) →
      Completes s .xtsSetkey (complete { s with xts := xtsSetup v (argM s) K s.xts.sect })
  | xtsSettweak (tw : Tweak) : s.xts.keyed = true →
      Completes s .xtsSettweak (complete { s with xts := { s.xts with tw := tw, tweaked := true } })
  | xtsSetsect : sectorSizeOk s.params s.len.toNat = true →
      Completes s .xtsSetsect (complete { s with xts := { s.xts with sect := s.len } })
  | sector {i : Instr} (f : Block → Block → Block) (T : Block) : formatOf i = .sector →
      Completes s i (complete (sectorBlocks f (s.xts.sect.toNat / 16) 0 T s))
  | xtsClear : Completes s .xtsClear (complete { s with xts := Xts.cleared s.xts.sect })

/-- Everything command `i` can do to `s`: it reports its first failing check and does nothing else, or it has passed
its checks and completes. -/
inductive Ends (i : Instr) (s : State) : State → Prop
  | raises {c : Code} : firstError i s = some c → Ends i s (raise c s)
  | completes {t : State} : firstError i s = none → Completes s i t → Ends i s t

/-- Every command answers a next state (R310). -/
theorem exec_total (i : Instr) (s : State) : ∃ t, exec i s = next t := by
  cases i
  case rcon =>
    simp only [exec, execRcon]
    cases roundIndex s <;> exact ⟨_, rfl⟩
  all_goals exact ⟨_, rfl⟩

/-- The words of a key of `4 * n` bytes. -/
theorem words_readSrc_length {n k : Nat} (s : State) (h : k = 4 * n) : (words (readSrc k s)).length = n :=
  words_length _ _ (by rw [readSrc, memRead_length, h])

theorem keyBytes_eq (v : Variant) : keyBytes v = 4 * keyWords v := by cases v <;> rfl

section Shapes

variable {i : Instr} {s t : State}

/-- A command that makes no check and reports a value. -/
theorem report_ends {v : Word} (hw : writesResult i = true) (he : firstError i s = none)
    (h : next (complete (setResult v s)) = (next t : Host.Outcome State Fault Refusal)) : Ends i s t := by
  cases h
  exact .completes he (.report v hw)

theorem blockCommand_ends {f : Block → Block} (hf : formatOf i = .blk) (hc : Checks i s false false false false)
    (h : blockCommand f s = next t) : Ends i s t := by
  obtain ⟨hr, rfl⟩ | ⟨hr, rfl⟩ := blockCommand_next h
  · exact .completes (by simp [hc.firstError_eq, hf, hr]) (.store (by simp [hf, formatWrites]))
  · exact .raises (by simp [hc.firstError_eq, hf, hr])

theorem cipherCommand_ends {f : AesCtx → Variant → Block → Block} {v : Variant} (hf : formatOf i = .blk)
    (hc : Checks i s false (!(ctxOf v s).keyed) false false) (h : cipherCommand f v s = next t) : Ends i s t := by
  obtain ⟨hk, rfl⟩ | ⟨hk, hr, rfl⟩ | ⟨hk, hr, rfl⟩ := cipherCommand_next h
  · exact .raises (by simp [hc.firstError_eq, hk])
  · exact .raises (by simp [hc.firstError_eq, hf, hk, hr])
  · exact .completes (by simp [hc.firstError_eq, hf, hk, hr]) (.store (by simp [hf, formatWrites]))

theorem windowCommand_ends {n : Nat} {f : List Quad → Nat → List Quad} (hf : formatOf i = .win (4 * n))
    (hlen : ∀ W j, (f W j).length = W.length) (hc : Checks i s (roundIndex s).isNone false false false)
    (h : windowCommand (4 * n) f s = next t) : Ends i s t := by
  obtain ⟨hi, rfl⟩ | ⟨j, hi, hr, rfl⟩ | ⟨j, hi, hr, rfl⟩ := windowCommand_next h
  · exact .raises (by simp [hc.firstError_eq, hi])
  · exact .raises (by simp [hc.firstError_eq, hf, hi, hr])
  · exact .completes (by simp [hc.firstError_eq, hf, hi, hr])
      (.store (by simp [hf, formatWrites, hlen, words_readSrc_length]))

theorem setKeyCommand_ends {v : Variant} (hc : Checks (setkeyOf v) s false false false (s.len.toNat != keyBytes v))
    (h : setKeyCommand v s = next t) : Ends (setkeyOf v) s t := by
  have hf : formatOf (setkeyOf v) = .key := by cases v <;> rfl
  obtain ⟨hl, rfl⟩ | ⟨hl, hr, rfl⟩ | ⟨hl, hr, rfl⟩ := setKeyCommand_next h
  · exact .raises (by simp [hc.firstError_eq, hl])
  · exact .raises (by simp [hc.firstError_eq, hf, hl, hr])
  · exact .completes (by simp [hc.firstError_eq, hf, hl, hr])
      (.setKey v (words_readSrc_length s (keyBytes_eq v)))

theorem clearCommand_ends {v : Variant} (he : firstError (clearOf v) s = none) (h : clearCommand v s = next t) :
    Ends (clearOf v) s t := by
  obtain rfl := clearCommand_next h
  exact .completes he (.clear v)

theorem streamCommand_ends {d : Bool} (hf : formatOf i = .stream)
    (hc : Checks i s false (s.eax.ph == .noKey) (s.eax.ph == .noIv || s.eax.ph == .done) false)
    (h : streamCommand d s = next t) : Ends i s t := by
  obtain ⟨hp, rfl⟩ | ⟨hk, ha, hp, rfl⟩ | ⟨hp, hr, rfl⟩ | ⟨hp, hr, rfl⟩ := streamCommand_next h
  · exact .raises (by simp [hc.firstError_eq, hp])
  · exact .raises (by rw [hc.firstError_eq]; cases hph : s.eax.ph <;> simp_all)
  · exact .raises (by rw [hc.firstError_eq]; rcases hp with hp | hp <;> simp [hf, hp, hr])
  · exact .completes (by rw [hc.firstError_eq]; rcases hp with hp | hp <;> simp [hf, hp, hr]) (.stream d hf hp)

theorem sectorCommand_ends {f : Xts → Block → Block → Block} (hf : formatOf i = .sector)
    (hc : Checks i s false (!s.xts.keyed) (!s.xts.tweaked) false) (h : sectorCommand f s = next t) : Ends i s t := by
  obtain ⟨hk, rfl⟩ | ⟨hk, hp, rfl⟩ | ⟨hk, hp, hr, rfl⟩ | ⟨hk, hp, hr, rfl⟩ := sectorCommand_next h
  · exact .raises (by simp [hc.firstError_eq, hk])
  · exact .raises (by simp [hc.firstError_eq, hk, hp])
  · exact .raises (by simp [hc.firstError_eq, hf, hk, hp, hr])
  · exact .completes (by simp [hc.firstError_eq, hf, hk, hp, hr]) (.sector _ _ hf)

end Shapes

section Commands

variable {s t : State}

theorem execArk_ends (h : execArk s = next t) : Ends .ark s t := by
  have hc : Checks .ark s false false false false := ⟨rfl, rfl, rfl, rfl⟩
  simp only [execArk, Host.Outcome.next.injEq] at h
  split_ifs at h with hr <;> subst h
  · exact .completes (by simp [hc.firstError_eq, formatOf, hr]) (.store rfl)
  · exact .raises (by simp [hc.firstError_eq, formatOf, hr])

theorem execSubword_ends (h : execSubword s = next t) : Ends .subword s t := by
  have hc : Checks .subword s false false false false := ⟨rfl, rfl, rfl, rfl⟩
  simp only [execSubword, Host.Outcome.next.injEq] at h
  split_ifs at h with hr <;> subst h
  · exact .completes (by simp [hc.firstError_eq, formatOf, hr]) (.store rfl)
  · exact .raises (by simp [hc.firstError_eq, formatOf, hr])

theorem execRcon_ends (h : execRcon s = next t) : Ends .rcon s t := by
  have hc : Checks .rcon s (roundIndex s).isNone false false false := ⟨(roundIndex_isNone s).symm, rfl, rfl, rfl⟩
  have hr : operandsInRange (formatOf .rcon) s = true := rfl
  simp only [execRcon] at h
  cases hi : roundIndex s with
  | none =>
    rw [hi] at h; cases h
    exact .raises (by simp [hc.firstError_eq, hi])
  | some j =>
    rw [hi] at h
    exact report_ends rfl (by simp [hc.firstError_eq, hi, hr]) h

theorem execKcore_ends (h : execKcore s = next t) : Ends .kcore s t := by
  have hc : Checks .kcore s (roundIndex s).isNone false false false := ⟨(roundIndex_isNone s).symm, rfl, rfl, rfl⟩
  simp only [execKcore, Host.Outcome.next.injEq] at h
  subst h
  cases hi : roundIndex s with
  | none => exact .raises (by simp [hc.firstError_eq, hi])
  | some j =>
    dsimp only
    split_ifs with hr
    · exact .completes (by simp [hc.firstError_eq, formatOf, hi, hr]) (.store rfl)
    · exact .raises (by simp [hc.firstError_eq, formatOf, hi, hr])

/-- EAX.KEYSIZE and XTS.KEYSIZE: ARG.V is checked, then a value is reported. -/
theorem variantQuery_ends {i : Instr} {g : Variant → Word} (hw : writesResult i = true)
    (hr : operandsInRange (formatOf i) s = true) (hc : Checks i s (argVariant s).isNone false false false)
    (h : (argVariant s).elim (raise .errArg s) (fun v => complete (setResult (g v) s)) = t) : Ends i s t := by
  subst h
  cases hv : argVariant s with
  | none => exact .raises (by simp [hc.firstError_eq, hv])
  | some v => exact .completes (by simp [hc.firstError_eq, hv, hr]) (.report _ hw)

theorem execEaxSetkey_ends (h : execEaxSetkey s = next t) : Ends .eaxSetkey s t := by
  have hc : Checks .eaxSetkey s (argVariant s).isNone false false
      (((argVariant s).map keyBytes).elim false (s.len.toNat != ·)) := by
    refine ⟨(argVariant_isNone s).symm, rfl, rfl, ?_⟩
    cases hv : argVariant s <;> simp [lenFails, expectedKeyBytes, hv]
  simp only [execEaxSetkey, Host.Outcome.next.injEq] at h
  subst h
  cases hv : argVariant s with
  | none => exact .raises (by simp [hc.firstError_eq, hv])
  | some v =>
    dsimp only
    split_ifs with hl hr
    · exact .completes (by simp [hc.firstError_eq, formatOf, hv, hl, hr])
        (.eaxSetkey v (words_readSrc_length s (by rw [hl, keyBytes_eq])))
    · exact .raises (by simp [hc.firstError_eq, formatOf, hv, hl, hr])
    · exact .raises (by simp [hc.firstError_eq, hv, hl])

theorem execEaxSetiv_ends (h : execEaxSetiv s = next t) : Ends .eaxSetiv s t := by
  have hc : Checks .eaxSetiv s false (s.eax.ph == .noKey) false false := ⟨rfl, rfl, rfl, rfl⟩
  simp only [execEaxSetiv, Host.Outcome.next.injEq] at h
  split_ifs at h with hk hr <;> subst h
  · exact .raises (by simp [hc.firstError_eq, hk])
  · exact .completes (by simp [hc.firstError_eq, formatOf, hk, hr]) (.eaxSetiv hk)
  · exact .raises (by simp [hc.firstError_eq, formatOf, hk, hr])

theorem execEaxAad_ends (h : execEaxAad s = next t) : Ends .eaxAad s t := by
  have hc : Checks .eaxAad s false (s.eax.ph == .noKey) (s.eax.ph != .auth) false := ⟨rfl, rfl, rfl, rfl⟩
  simp only [execEaxAad, Host.Outcome.next.injEq] at h
  split_ifs at h with hk hp hr <;> subst h
  · exact .raises (by simp [hc.firstError_eq, hk])
  · exact .raises (by simp [hc.firstError_eq, hk, hp])
  · have ha : s.eax.ph = .auth := not_not.1 hp
    exact .completes (by simp [hc.firstError_eq, formatOf, ha, hr]) (.eaxAad ha)
  · have ha : s.eax.ph = .auth := not_not.1 hp
    exact .raises (by simp [hc.firstError_eq, formatOf, ha, hr])

theorem execEaxTag_ends (h : execEaxTag s = next t) : Ends .eaxTag s t := by
  have hc : Checks .eaxTag s false (s.eax.ph == .noKey) (s.eax.ph == .noIv) false := ⟨rfl, rfl, rfl, rfl⟩
  simp only [execEaxTag, Host.Outcome.next.injEq] at h
  split_ifs at h with hk hp hr <;> subst h
  · exact .raises (by simp [hc.firstError_eq, hk])
  · exact .raises (by simp [hc.firstError_eq, hp])
  · exact .completes (by simp [hc.firstError_eq, formatOf, hk, hp, hr]) (.eaxTag hk hp)
  · exact .raises (by simp [hc.firstError_eq, formatOf, hk, hp, hr])

theorem execEaxChktag_ends (h : execEaxChktag s = next t) : Ends .eaxChktag s t := by
  have hc : Checks .eaxChktag s false (s.eax.ph == .noKey) (s.eax.ph == .noIv) false := ⟨rfl, rfl, rfl, rfl⟩
  simp only [execEaxChktag, Host.Outcome.next.injEq] at h
  split_ifs at h with hk hp hr hm <;> subst h
  · exact .raises (by simp [hc.firstError_eq, hk])
  · exact .raises (by simp [hc.firstError_eq, hp])
  · exact .completes (by simp [hc.firstError_eq, formatOf, hk, hp, hr]) (.eaxMatch hk hp)
  · exact .completes (by simp [hc.firstError_eq, formatOf, hk, hp, hr]) (.eaxMismatch hk hp)
  · exact .raises (by simp [hc.firstError_eq, formatOf, hk, hp, hr])

theorem execXtsSetkey_ends (h : execXtsSetkey s = next t) : Ends .xtsSetkey s t := by
  have hc : Checks .xtsSetkey s (argVariant s).isNone false false
      (((argVariant s).map (xtsKeyBytes · (argM s))).elim false (s.len.toNat != ·)) := by
    refine ⟨(argVariant_isNone s).symm, rfl, rfl, ?_⟩
    cases hv : argVariant s <;> simp [lenFails, expectedKeyBytes, hv, xtsKeyBytes]
  simp only [execXtsSetkey, Host.Outcome.next.injEq] at h
  subst h
  cases hv : argVariant s with
  | none => exact .raises (by simp [hc.firstError_eq, hv])
  | some v =>
    dsimp only
    split_ifs with hl hr
    · refine .completes (by simp [hc.firstError_eq, formatOf, hv, hl, hr]) (.xtsSetkey v (words_readSrc_length s ?_))
      rw [hl, xtsKeyBytes, keyBytes_eq]
      split_ifs <;> omega
    · exact .raises (by simp [hc.firstError_eq, formatOf, hv, hl, hr])
    · exact .raises (by simp [hc.firstError_eq, hv, hl])

theorem execXtsSettweak_ends (h : execXtsSettweak s = next t) : Ends .xtsSettweak s t := by
  have hc : Checks .xtsSettweak s false (!s.xts.keyed) false (16 < s.len.toNat) := ⟨rfl, rfl, rfl, rfl⟩
  simp only [execXtsSettweak, Host.Outcome.next.injEq] at h
  split_ifs at h with hk hl hr <;> subst h
  · exact .completes (by simp [hc.firstError_eq, formatOf, hk, hl, hr]) (.xtsSettweak _ hk)
  · exact .raises (by simp [hc.firstError_eq, formatOf, hk, hl, hr])
  · exact .raises (by simp [hc.firstError_eq, hk, Nat.lt_of_not_le hl])
  · exact .raises (by simp [hc.firstError_eq, hk])

theorem execXtsSetsect_ends (h : execXtsSetsect s = next t) : Ends .xtsSetsect s t := by
  have hc : Checks .xtsSetsect s false false false (!sectorSizeOk s.params s.len.toNat) := by
    refine ⟨rfl, rfl, rfl, ?_⟩
    rw [lenFails, sectorSizeOk, Bool.not_and, Bool.not_and, ← decide_not]
    simp [bne]
  have hr : operandsInRange (formatOf .xtsSetsect) s = true := rfl
  simp only [execXtsSetsect, Host.Outcome.next.injEq] at h
  split_ifs at h with hl <;> subst h
  · exact .completes (by simp [hc.firstError_eq, hl, hr]) (.xtsSetsect hl)
  · exact .raises (by simp [hc.firstError_eq, hl])

end Commands

/-- A command that answers a next state has reported its first failing check, or passed them all and completed. -/
theorem exec_ends {i : Instr} {s t : State} (h : exec i s = next t) : Ends i s t := by
  have hround := (roundIndex_isNone s).symm
  have hvariant := (argVariant_isNone s).symm
  cases i with
  | nop =>
    cases h
    exact .completes rfl .nop
  | subbytes => exact blockCommand_ends (f := subBytes) rfl ⟨rfl, rfl, rfl, rfl⟩ h
  | shiftrows => exact blockCommand_ends (f := shiftRows) rfl ⟨rfl, rfl, rfl, rfl⟩ h
  | sbsr => exact blockCommand_ends (f := fun b => shiftRows (subBytes b)) rfl ⟨rfl, rfl, rfl, rfl⟩ h
  | isubbytes => exact blockCommand_ends (f := invSubBytes) rfl ⟨rfl, rfl, rfl, rfl⟩ h
  | ishiftrows => exact blockCommand_ends (f := invShiftRows) rfl ⟨rfl, rfl, rfl, rfl⟩ h
  | isrsb => exact blockCommand_ends (f := fun b => invSubBytes (invShiftRows b)) rfl ⟨rfl, rfl, rfl, rfl⟩ h
  | mixc => exact blockCommand_ends (f := mixColumns) rfl ⟨rfl, rfl, rfl, rfl⟩ h
  | imixc => exact blockCommand_ends (f := invMixColumns) rfl ⟨rfl, rfl, rfl, rfl⟩ h
  | ark => exact execArk_ends h
  | subb | isubb | xtime | gmul => exact report_ends rfl rfl h
  | rcon => exact execRcon_ends h
  | kcore => exact execKcore_ends h
  | subword => exact execSubword_ends h
  | kstep128 => exact windowCommand_ends (n := 4) rfl kStep_length ⟨hround, rfl, rfl, rfl⟩ h
  | kstep192 => exact windowCommand_ends (n := 6) rfl kStep_length ⟨hround, rfl, rfl, rfl⟩ h
  | kstep256 => exact windowCommand_ends (n := 8) rfl kStep_length ⟨hround, rfl, rfl, rfl⟩ h
  | ikstep128 => exact windowCommand_ends (n := 4) rfl ikStep_length ⟨hround, rfl, rfl, rfl⟩ h
  | ikstep192 => exact windowCommand_ends (n := 6) rfl ikStep_length ⟨hround, rfl, rfl, rfl⟩ h
  | ikstep256 => exact windowCommand_ends (n := 8) rfl ikStep_length ⟨hround, rfl, rfl, rfl⟩ h
  | aesf128Setkey => exact setKeyCommand_ends (v := .full128) ⟨rfl, rfl, rfl, rfl⟩ h
  | aesf192Setkey => exact setKeyCommand_ends (v := .full192) ⟨rfl, rfl, rfl, rfl⟩ h
  | aesf256Setkey => exact setKeyCommand_ends (v := .full256) ⟨rfl, rfl, rfl, rfl⟩ h
  | aest128Setkey => exact setKeyCommand_ends (v := .tiny128) ⟨rfl, rfl, rfl, rfl⟩ h
  | aest256Setkey => exact setKeyCommand_ends (v := .tiny256) ⟨rfl, rfl, rfl, rfl⟩ h
  | aess128Setkey => exact setKeyCommand_ends (v := .small128) ⟨rfl, rfl, rfl, rfl⟩ h
  | aess256Setkey => exact setKeyCommand_ends (v := .small256) ⟨rfl, rfl, rfl, rfl⟩ h
  | aesf128Enc | aesf128Dec => exact cipherCommand_ends (v := .full128) rfl ⟨rfl, rfl, rfl, rfl⟩ h
  | aesf192Enc | aesf192Dec => exact cipherCommand_ends (v := .full192) rfl ⟨rfl, rfl, rfl, rfl⟩ h
  | aesf256Enc | aesf256Dec => exact cipherCommand_ends (v := .full256) rfl ⟨rfl, rfl, rfl, rfl⟩ h
  | aest128Enc | aest128Dec => exact cipherCommand_ends (v := .tiny128) rfl ⟨rfl, rfl, rfl, rfl⟩ h
  | aest256Enc | aest256Dec => exact cipherCommand_ends (v := .tiny256) rfl ⟨rfl, rfl, rfl, rfl⟩ h
  | aess128Enc | aess128Dec => exact cipherCommand_ends (v := .small128) rfl ⟨rfl, rfl, rfl, rfl⟩ h
  | aess256Enc | aess256Dec => exact cipherCommand_ends (v := .small256) rfl ⟨rfl, rfl, rfl, rfl⟩ h
  | aesf128Clear => exact clearCommand_ends (v := .full128) rfl h
  | aesf192Clear => exact clearCommand_ends (v := .full192) rfl h
  | aesf256Clear => exact clearCommand_ends (v := .full256) rfl h
  | aest128Clear => exact clearCommand_ends (v := .tiny128) rfl h
  | aest256Clear => exact clearCommand_ends (v := .tiny256) rfl h
  | aess128Clear => exact clearCommand_ends (v := .small128) rfl h
  | aess256Clear => exact clearCommand_ends (v := .small256) rfl h
  | aesf128Keysize | aesf192Keysize | aesf256Keysize | aest128Keysize | aest256Keysize | aess128Keysize
  | aess256Keysize => exact report_ends rfl rfl h
  | aesf128Blocksize | aesf192Blocksize | aesf256Blocksize | aest128Blocksize | aest256Blocksize
  | aess128Blocksize | aess256Blocksize => exact report_ends rfl rfl h
  | eaxSetkey => exact execEaxSetkey_ends h
  | eaxSetiv => exact execEaxSetiv_ends h
  | eaxAad => exact execEaxAad_ends h
  | eaxEnc | eaxDec => exact streamCommand_ends rfl ⟨rfl, rfl, rfl, rfl⟩ h
  | eaxTag => exact execEaxTag_ends h
  | eaxChktag => exact execEaxChktag_ends h
  | eaxClear =>
    cases h
    exact .completes rfl .eaxClear
  | eaxKeysize =>
    simp only [exec, execEaxKeysize, Host.Outcome.next.injEq] at h
    refine variantQuery_ends (g := fun v => BitVec.ofNat 32 (keyBytes v)) rfl rfl ⟨hvariant, rfl, rfl, rfl⟩ ?_
    rw [← h]
    cases argVariant s <;> rfl
  | eaxIvsize | eaxTagsize => exact report_ends rfl rfl h
  | xtsSetkey => exact execXtsSetkey_ends h
  | xtsSettweak => exact execXtsSettweak_ends h
  | xtsSetsect => exact execXtsSetsect_ends h
  | xtsGetsect => exact report_ends rfl rfl h
  | xtsEncsect | xtsDecsect => exact sectorCommand_ends rfl ⟨rfl, rfl, rfl, rfl⟩ h
  | xtsClear =>
    cases h
    exact .completes rfl .xtsClear
  | xtsKeysize =>
    simp only [exec, execXtsKeysize, Host.Outcome.next.injEq] at h
    refine variantQuery_ends (g := fun v => BitVec.ofNat 32 (xtsKeyBytes v (argM s))) rfl rfl
      ⟨hvariant, rfl, rfl, rfl⟩ ?_
    rw [← h]
    cases argVariant s <;> rfl
  | xtsTweaksize => exact report_ends rfl rfl h

/-! ### What a command keeps (00_scope.md R9; 10_state.md R31, R32; 60_exceptions.md R308) -/

section StreamFrame

variable (d : Bool) (n i : Nat) (s : State)

@[simp] theorem streamBytes_params : (streamBytes d n i s).params = s.params := by rw [streamBytes_frame]

@[simp] theorem streamBytes_result : (streamBytes d n i s).result = s.result := by rw [streamBytes_frame]

@[simp] theorem streamBytes_xts : (streamBytes d n i s).xts = s.xts := by rw [streamBytes_frame]

end StreamFrame

section SectorFrame

variable (f : Block → Block → Block) (n k : Nat) (T : Block) (s : State)

@[simp] theorem sectorBlocks_params : (sectorBlocks f n k T s).params = s.params := by rw [sectorBlocks_frame]

@[simp] theorem sectorBlocks_result : (sectorBlocks f n k T s).result = s.result := by rw [sectorBlocks_frame]

@[simp] theorem sectorBlocks_xts : (sectorBlocks f n k T s).xts = s.xts := by rw [sectorBlocks_frame]

end SectorFrame

section Kept

variable {i : Instr} {s t : State}

theorem Completes.busy (h : Completes s i t) : t.busy = false := by cases h <;> rfl

theorem Completes.code (h : Completes s i t) : t.code = .ok ∨ t.code = .tagMismatch ∧ i = .eaxChktag := by
  cases h with
  | eaxMismatch => exact .inr ⟨rfl, rfl⟩
  | _ => exact .inl rfl

theorem Completes.params (h : Completes s i t) : t.params = s.params := by
  cases h with
  | stream => exact streamBytes_params _ _ _ _
  | sector => exact sectorBlocks_params _ _ _ _ _
  | _ => rfl

theorem Completes.result (h : Completes s i t) (hw : writesResult i = false) : t.result = s.result := by
  cases h with
  | report v hv => exact absurd hw (by simp [hv])
  | eaxMatch | eaxMismatch => cases hw
  | stream => exact streamBytes_result _ _ _ _
  | sector => exact sectorBlocks_result _ _ _ _ _
  | _ => rfl

/-- A command that completes writes inside the range of its format (R88). -/
theorem Completes.writesWithin (h : Completes s i t) :
    WritesWithin s.dst.toNat (formatWrites (formatOf i) s) s.dmem t.dmem := by
  cases h with
  | store hl => exact .store .refl le_rfl (by rw [hl])
  | stream d hf =>
    rw [hf]
    exact streamBytes_writesWithin d s.len.toNat s.dmem s.len.toNat 0 { s with eax := closeAuth s.eax } (by omega) .refl
  | eaxTag => exact .store .refl le_rfl (by simp [formatOf, formatWrites])
  | sector f T hf =>
    rw [hf]
    exact sectorBlocks_writesWithin f s.xts.sect.toNat s.dmem (s.xts.sect.toNat / 16) 0 T s (by omega) .refl
  | _ => exact .refl

theorem Ends.busy (h : Ends i s t) : t.busy = false := by
  cases h with
  | raises => rfl
  | completes _ hc => exact hc.busy

theorem Ends.params (h : Ends i s t) : t.params = s.params := by
  cases h with
  | raises => rfl
  | completes _ hc => exact hc.params

/-- A command writes inside the range of its format, also when it raises (R88). -/
theorem Ends.writesWithin (h : Ends i s t) :
    WritesWithin s.dst.toNat (formatWrites (formatOf i) s) s.dmem t.dmem := by
  cases h with
  | raises => exact .refl
  | completes _ hc => exact hc.writesWithin

theorem Ends.result (h : Ends i s t) (hw : writesResult i = false ∨ codeIsError t.code = true) :
    t.result = s.result := by
  cases h with
  | raises => rfl
  | completes _ hc =>
    refine hc.result (hw.resolve_right fun he => ?_)
    obtain hok | ⟨hmis, _⟩ := hc.code
    · simp [hok, codeIsError] at he
    · simp [hmis, codeIsError] at he

end Kept

/-- Settles O17: `exec_ends`, with the code and BUSY of a command that completes. -/
theorem checksAreMadeInOrder : Obligations.ChecksAreMadeInOrder := by
  intro i s
  obtain ⟨t, ht⟩ := exec_total i s
  cases exec_ends ht with
  | raises he =>
    refine ⟨fun c hc => ?_, fun hn => absurd (he.symm.trans hn) nofun⟩
    cases he.symm.trans hc
    exact ht
  | completes he hc => exact ⟨fun c h => absurd (he.symm.trans h) nofun, fun _ => ⟨t, ht, hc.busy, hc.code⟩⟩

/-- Settles O11: every command writes inside the range of its format. -/
theorem commandsKeepDmemOutsideTheirRange : Obligations.CommandsKeepDmemOutsideTheirRange :=
  fun _ _ _ h _ ha => (exec_ends h).writesWithin.read_outside ha

/-- Settles O13: a command that raises, or completes without reporting a value, keeps RESULT. -/
theorem resultIsKeptByOtherCommands : Obligations.ResultIsKeptByOtherCommands :=
  fun _ _ _ h hw => (exec_ends h).result hw

/-! ### Everything a step can do (70_reset_and_hazards.md R331, R333, R349) -/

/-- What a step from `s` does: one constructor per kind of action, the effect of a command as `Ends` gives it. -/
inductive StepEffect (s : State) : State → Prop
  /-- The run is over (R333). -/
  | idle : StepEffect s s
  /-- A read of a register or of DMEM. -/
  | read (rest : List HostAction) (r : HostRead) : StepEffect s (logRead r { s with actions := rest })
  /-- A register write that runs no command. -/
  | register (rest : List HostAction) (src dst len arg : Word) :
      StepEffect s { s with actions := rest, src := src, dst := dst, len := len, arg := arg }
  | memory (rest : List HostAction) {a : Nat} {bs : List Byte} : inRange s.params a bs.length = true →
      StepEffect s { s with actions := rest, dmem := memWrite s.dmem a bs }
  | reset (rest : List HostAction) (contents : List Host.Cell) :
      StepEffect s (afterReset contents { s with actions := rest })
  /-- A CMD write of a reserved word (R87). -/
  | reserved (rest : List HostAction) (c : Word) :
      StepEffect s (raise .errOpc { s with actions := rest, cmd := c, busy := true })
  | command (rest : List HostAction) {c : Word} {i : Instr} {t : State} : decode c = .ok i →
      Ends i { s with actions := rest, cmd := c, busy := true } t → StepEffect s t

theorem writeSlot_effect {o : BitVec 8} {v : Word} {s t : State} (rest : List HostAction)
    (h : writeSlot o v { s with actions := rest } = next t) : StepEffect s t := by
  obtain ⟨_, hw⟩ | ⟨_, hw⟩ | ⟨_, hw⟩ | ⟨_, hw⟩ | ⟨_, hw⟩ | hw := writeSlot_cases o v { s with actions := rest } <;>
    rw [hw] at h
  · obtain ⟨i, hd, hi⟩ | ⟨r, _, hi⟩ := issue_cases v { s with actions := rest } <;> rw [hi] at h
    · exact .command rest hd (exec_ends h)
    · cases h
      exact .reserved rest v
  all_goals
    cases h
    exact .register rest _ _ _ _

theorem step_effect {s t : State} (h : step s = next t) : StepEffect s t := by
  obtain ⟨_, hs⟩ | ⟨a, rest, _, hs⟩ := step_cases s <;> rw [hs] at h
  · cases h
    exact .idle
  · obtain ⟨_, _, _, _, rfl⟩ | ⟨_, _, _, _, _, _, hw⟩ | ⟨_, _, _, _, rfl⟩ | ⟨_, _, _, hr, rfl⟩ | ⟨contents, _, rfl⟩ :=
      perform_next h
    · exact .read rest _
    · exact writeSlot_effect rest hw
    · exact .read rest _
    · exact .memory rest hr
    · exact .reset rest contents

/-- Settles O59, by the kinds of step. -/
theorem stepEndsWithBusyClear : Obligations.StepEndsWithBusyClear := by
  intro s t h
  cases step_effect h with
  | reset | reserved => exact ⟨fun _ => rfl, rfl⟩
  | command _ _ he => exact ⟨fun _ => he.busy, he.params⟩
  | idle | read | register | memory => exact ⟨id, rfl⟩

/-! ### DMEM (20_memory.md R61, R66) -/

/-- A command keeps DMEM canonical and inside DMEM_SIZE. -/
theorem Ends.dmemInv {i : Instr} {s t : State} (h : Ends i s t) (hs : DmemInv s) : DmemInv t := by
  obtain ⟨hwf, hbelow⟩ := hs
  cases h with
  | raises => exact ⟨hwf, hbelow⟩
  | completes he hc =>
    refine ⟨hc.writesWithin.keeps_wf hwf, ?_⟩
    rw [hc.params]
    exact hc.writesWithin.keeps_below (inRange_formatWrites (operandsInRange_of_firstError he)) hbelow

/-- Settles O55, by the kinds of step: a command that completes has passed its range check. -/
theorem stepKeepsDmemInRange : Obligations.StepKeepsDmemInRange := by
  intro s t hs h
  cases step_effect h with
  | idle | read | register | reserved => exact hs
  | @memory rest a bs hr =>
    obtain ⟨hwf, hbelow⟩ := hs
    have hw : WritesWithin a bs.length s.dmem (memWrite s.dmem a bs) := .store .refl le_rfl le_rfl
    exact ⟨hw.keeps_wf hwf, hw.keeps_below hr hbelow⟩
  | reset rest contents => exact ⟨resetContents_wf _ contents [] rfl, resetContents_below _ contents [] rfl⟩
  | command _ _ he => exact he.dmemInv hs

/-! ### The XTS context (10_state.md R44, R46; 43_xts.md R274, R276, R280) -/

/-- The clauses of `XtsInv` that speak of the context alone, its sector size apart. -/
def XtsFlagsAgree (x : Xts) : Prop :=
  Regenerable x.v x.data ∧ Regenerable x.v x.twk ∧
  (x.keyed = true ↔ x.data.keyed = true) ∧
  (x.twk.keyed = true ↔ x.keyed = true ∧ x.m = false) ∧
  (x.tweaked = true → x.keyed = true) ∧
  (x.keyed = false → x = Xts.cleared x.sect)

/-- The sector sizes of `XtsInv`. -/
def SectorFits (p : Params) (sect : Word) : Prop := sect.toNat % 16 = 0 ∧ 16 ≤ sect.toNat ∧ sect.toNat ≤ p.sectorMax

theorem xtsInv_iff (s : State) :
    XtsInv s ↔ s.params.wf = true ∧ XtsFlagsAgree s.xts ∧ SectorFits s.params s.xts.sect := by
  simp only [XtsInv, XtsFlagsAgree, SectorFits, and_assoc]

@[simp] theorem aesSetup_keyed (v : Variant) (K : List Quad) : (aesSetup v K).keyed = true := by cases v <;> rfl

theorem regenerable_cleared (v : Variant) : Regenerable v AesCtx.cleared := .inl rfl

theorem regenerable_aesSetup {v : Variant} {K : List Quad} (h : K.length = keyWords v) :
    Regenerable v (aesSetup v K) := .inr ⟨K, h, rfl⟩

theorem xtsFlagsAgree_cleared (sect : Word) : XtsFlagsAgree (Xts.cleared sect) := by
  refine ⟨regenerable_cleared _, regenerable_cleared _, ?_⟩
  simp [Xts.cleared, AesCtx.cleared]

/-- XTS.SETKEY keys both ciphers, or in single-key mode the data cipher alone. -/
theorem xtsFlagsAgree_setup {v : Variant} {m : Bool} {K : List Quad} (sect : Word)
    (hK : K.length = (if m then keyWords v else 2 * keyWords v)) : XtsFlagsAgree (xtsSetup v m K sect) := by
  cases m with
  | true =>
    simp only [if_true] at hK
    refine ⟨regenerable_aesSetup (v := v) ?_, regenerable_cleared _, ?_⟩
    · rw [List.length_take]
      omega
    · simp [xtsSetup, Xts.cleared, AesCtx.cleared]
  | false =>
    simp only [Bool.false_eq_true, if_false] at hK
    refine ⟨regenerable_aesSetup (v := v) ?_, regenerable_aesSetup (v := v) ?_, ?_⟩
    · rw [List.length_take]
      omega
    · rw [List.length_drop]
      omega
    · simp [xtsSetup, Xts.cleared]

theorem XtsFlagsAgree.setTweak {x : Xts} (h : XtsFlagsAgree x) (tw : Tweak) (hk : x.keyed = true) :
    XtsFlagsAgree { x with tw := tw, tweaked := true } := by
  obtain ⟨hdata, htwk, hkeyed, hmode, _, _⟩ := h
  exact ⟨hdata, htwk, hkeyed, hmode, fun _ => hk, fun hn => absurd (hk.symm.trans hn) nofun⟩

theorem XtsFlagsAgree.setSect {x : Xts} (h : XtsFlagsAgree x) (sect : Word) :
    XtsFlagsAgree { x with sect := sect } := by
  obtain ⟨hdata, htwk, hkeyed, hmode, htweaked, hcleared⟩ := h
  refine ⟨hdata, htwk, hkeyed, hmode, htweaked, fun hn => ?_⟩
  rw [hcleared hn]
  rfl

theorem sectorFits_of_ok {p : Params} {sect : Word} (h : sectorSizeOk p sect.toNat = true) : SectorFits p sect := by
  simp only [sectorSizeOk, Bool.and_eq_true, bne_iff_ne, beq_iff_eq, decide_eq_true_eq] at h
  obtain ⟨⟨hne, hmod⟩, hmax⟩ := h
  exact ⟨hmod, by omega, hmax⟩

/-- The sector size after reset fits every platform (R9, R331). -/
theorem sectorFits_default {p : Params} (h : p.wf = true) : SectorFits p Config.sectorDefault := by
  simp only [Params.wf, Bool.and_eq_true, decide_eq_true_eq] at h
  obtain ⟨⟨⟨_, hmax⟩, _⟩, _⟩ := h
  exact ⟨rfl, by decide, hmax⟩

/-- The XTS invariant speaks of the parameters and the XTS context alone. -/
theorem XtsInv.congr {s t : State} (h : XtsInv s) (hp : t.params = s.params) (hx : t.xts = s.xts) : XtsInv t := by
  rw [xtsInv_iff] at h ⊢
  rwa [hp, hx]

/-- A state whose XTS context is that of R331. -/
theorem xtsInv_of_reset {s : State} (hp : s.params.wf = true) (hx : s.xts = Xts.cleared Config.sectorDefault) :
    XtsInv s := by
  rw [xtsInv_iff, hx]
  exact ⟨hp, xtsFlagsAgree_cleared _, sectorFits_default hp⟩

theorem Completes.xtsInv {i : Instr} {s t : State} (h : Completes s i t) (hs : XtsInv s) : XtsInv t := by
  obtain ⟨hp, hflags, hsect⟩ := (xtsInv_iff s).1 hs
  cases h with
  | xtsSetkey v hK => exact (xtsInv_iff _).2 ⟨hp, xtsFlagsAgree_setup _ hK, hsect⟩
  | xtsSettweak tw hk => exact (xtsInv_iff _).2 ⟨hp, hflags.setTweak tw hk, hsect⟩
  | xtsSetsect hok => exact (xtsInv_iff _).2 ⟨hp, hflags.setSect _, sectorFits_of_ok hok⟩
  | xtsClear => exact (xtsInv_iff _).2 ⟨hp, xtsFlagsAgree_cleared _, hsect⟩
  | stream => exact hs.congr (streamBytes_params _ _ _ _) (streamBytes_xts _ _ _ _)
  | sector => exact hs.congr (sectorBlocks_params _ _ _ _ _) (sectorBlocks_xts _ _ _ _ _)
  | _ => exact hs

/-- Settles O58, by the kinds of step: reset and the four XTS commands that write the context keep each clause. -/
theorem stepKeepsTheXtsInvariant : Obligations.StepKeepsTheXtsInvariant := by
  intro s t hs h
  cases step_effect h with
  | idle | read | register | memory | reserved => exact hs
  | reset =>
    obtain ⟨hp, _, _⟩ := (xtsInv_iff s).1 hs
    exact xtsInv_of_reset hp rfl
  | command _ _ he =>
    cases he with
    | raises => exact hs
    | completes _ hc => exact hc.xtsInv hs

/-! ### Reset (10_state.md R49; 70_reset_and_hazards.md R331) -/

/-- The platform's parameters are some that R9 allows. -/
theorem platform_wf : Config.platform.wf = true := by
  have hsize := Config.dmemSizeLessOne.isLt
  have hsteps := Config.sectorMaxSteps.isLt
  simp only [Params.wf, Bool.and_eq_true, decide_eq_true_eq, beq_iff_eq]
  simp only [Config.platform]
  omega

theorem ctxOf_reset (v : Variant) : ctxOf v State.reset = AesCtx.cleared := by
  simp [ctxOf, State.reset]

theorem eaxInv_reset : EaxInv State.reset := by
  refine ⟨regenerable_cleared _, ?_⟩
  simp [State.reset, Eax.cleared, AesCtx.cleared]

/-- Settles O60: after reset DMEM lists nothing and every context is cleared. -/
theorem resetMeetsTheInvariants : Obligations.ResetMeetsTheInvariants :=
  ⟨⟨rfl, rfl⟩, fun v => .inl (ctxOf_reset v), eaxInv_reset, xtsInv_of_reset platform_wf rfl, rfl⟩

/-! ### The host port (10_state.md R24 to R33; 20_memory.md R62, R64, R72) -/

theorem step_of_actions {s : State} {a : HostAction} {rest : List HostAction} (h : s.actions = a :: rest) :
    step s = perform a { s with actions := rest } := by
  simp only [step, hostStep, h]

/-- A step depends on the place its action reaches, not on the form of its address (R64). -/
theorem step_of_portAction_eq {s : State} {a b : HostAction} {rest : List HostAction} (h : s.actions = a :: rest)
    (hab : portAction s.params a = portAction s.params b) : step s = step { s with actions := b :: rest } := by
  rw [step_of_actions h, step_of_actions rfl]
  simp only [perform, hab]

/-- A 32-bit access at a multiple of 4 has a meaning (R67). -/
theorem accessOk_word {o : BitVec 8} (ho : o.toNat % 4 = 0) : accessOk 32 o = true := by simp [accessOk, ho]

section Idle

variable {s : State} {rest : List HostAction} (hb : s.busy = false)

include hb

/-- While BUSY = 0 a step is the access at the port (R349). -/
theorem step_idle {a : HostAction} (ha : s.actions = a :: rest) :
    step s = access (portAction s.params a) { s with actions := rest } := by
  rw [step_of_actions ha]
  exact if_neg (by simp [hb])

theorem step_readReg {o : BitVec 8} (ha : s.actions = .readReg 32 o :: rest) (ho : o.toNat % 4 = 0) :
    step s = next (logRead (.reg o (readSlot o s)) { s with actions := rest }) :=
  (step_idle hb ha).trans (if_pos (accessOk_word ho))

theorem step_writeReg {o : BitVec 8} {v : Word} (ha : s.actions = .writeReg 32 o v :: rest) (ho : o.toNat % 4 = 0) :
    step s = writeSlot o v { s with actions := rest } :=
  (step_idle hb ha).trans (if_pos (accessOk_word ho))

theorem step_readMem {a n : Nat} (ha : s.actions = .readMem a n :: rest) (hr : inRange s.params a n = true) :
    step s = next (logRead (.mem a (memRead s.dmem a n)) { s with actions := rest }) :=
  (step_idle hb ha).trans (if_pos hr)

theorem step_writeMem {a : Nat} {bs : List Byte} (ha : s.actions = .writeMem a bs :: rest)
    (hr : inRange s.params a bs.length = true) :
    step s = next { s with actions := rest, dmem := memWrite s.dmem a bs } :=
  (step_idle hb ha).trans (if_pos hr)

/-- While BUSY = 0 STATUS is the code alone (R31). -/
theorem statusWord_idle : statusWord s = (codeByte s.code).setWidth 32 := by
  rw [statusWord, hb]
  cases s.code <;> decide

/-- What the host reads at an offset while BUSY = 0 (R24). -/
theorem readSlot_idle (o : BitVec 8) : readSlot o s =
    if o = 0x00 then s.cmd else if o = 0x04 then s.src else if o = 0x08 then s.dst else if o = 0x0C then s.len
    else if o = 0x10 then s.arg else if o = 0x14 then (codeByte s.code).setWidth 32
    else if o = 0x18 then s.result else 0 := by
  rw [← statusWord_idle hb]
  simp only [← BitVec.toNat_inj]
  unfold readSlot
  split <;> simp_all

end Idle

/-- A write to a slot other than CMD (R24). -/
theorem writeSlot_of_ne_cmd {o : BitVec 8} (ho : o ≠ 0x00) (v : Word) (s : State) : writeSlot o v s = next { s with
    src := if o = 0x04 then v else s.src
    dst := if o = 0x08 then v else s.dst
    len := if o = 0x0C then v else s.len
    arg := if o = 0x10 then v else s.arg } := by
  simp only [← BitVec.toNat_inj, ne_eq] at ho ⊢
  unfold writeSlot
  split <;> simp_all

theorem issue_of_decode {c : Word} {i : Instr} (h : decode c = .ok i) (s : State) :
    issue c s = exec i { s with cmd := c, busy := true } := by
  simp only [issue, h]

/-- Settles O4: a write at offset 0x00 issues the command. -/
theorem stepRunsTheDecodedCommand : Obligations.StepRunsTheDecodedCommand := by
  intro s w i rest hb ha hd
  rw [step_writeReg hb ha rfl]
  exact issue_of_decode hd { s with actions := rest }

/-- Settles O5: the reads and writes of a slot while BUSY = 0, and the window at REG_BASE. -/
theorem registerWindow : Obligations.RegisterWindow := by
  intro s rest o v bits
  refine ⟨fun hb ha ho => ?_, fun hb ha ho hne => ?_, fun ha => ?_, fun ha => ?_⟩
  · rw [step_readReg hb ha ho, readSlot_idle hb]
    rfl
  · rw [step_writeReg hb ha ho, writeSlot_of_ne_cmd hne]
  · exact step_of_portAction_eq ha (by simp [portAction, windowOffset_base])
  · exact step_of_portAction_eq ha (by simp [portAction, windowOffset_base])

/-- A read of the bytes last written returns them (R62). -/
theorem memRead_memWrite {m : Memory} (a : Nat) (bs : List Byte) (h : m.wf = true) :
    memRead (memWrite m a bs) a bs.length = bs := by
  refine List.ext_getElem (memRead_length _ _ _) fun i hi hi' => ?_
  rw [← List.getD_eq_getElem _ 0 hi, ← List.getD_eq_getElem _ 0 hi', memRead_getD _ _ _ _ _ hi',
    memWrite_read_inside _ _ _ _ _ h hi']

/-- Settles O7: the write's effect, then a read of the same bytes, and the window at DMEM_BASE. -/
theorem hostDmemReadAfterWrite : Obligations.HostDmemReadAfterWrite := by
  refine ⟨fun s a bs rest hb hwf hsize ha => ?_, fun s a n bs rest => ⟨fun ha => ?_, fun ha => ?_⟩⟩
  · have hr : inRange s.params a bs.length = true := (inRange_iff _ _ _).2 (.inr hsize)
    have hread := step_readMem
      (s := { s with actions := .readMem a bs.length :: rest, dmem := memWrite s.dmem a bs }) hb rfl hr
    rw [memRead_memWrite a bs hwf] at hread
    exact ⟨_, step_writeMem hb ha hr, hread, fun c hc => memWrite_read_outside _ _ _ _ hc⟩
  · exact step_of_portAction_eq ha (by simp [portAction, dmemAddress_base])
  · exact step_of_portAction_eq ha (by simp [portAction, dmemAddress_base])

end Sys2Proof.Machine

namespace Sys2Proof.Machine

open Host.Outcome

/-! ### The AES contexts (10_state.md R35 to R39, R48) -/

@[simp] theorem streamBytes_ctx (d : Bool) (n i : Nat) (s : State) : (streamBytes d n i s).ctx = s.ctx := by
  rw [streamBytes_frame]

@[simp] theorem sectorBlocks_ctx (f : Block → Block → Block) (n k : Nat) (T : Block) (s : State) :
    (sectorBlocks f n k T s).ctx = s.ctx := by
  rw [sectorBlocks_frame]

/-- The invariant speaks of the AES contexts alone. -/
theorem CtxInv.congr {s t : State} (h : CtxInv s) (hc : t.ctx = s.ctx) : CtxInv t := by
  intro v
  rw [ctxOf, hc]
  exact h v

/-- A write of one context by a regenerable one. -/
theorem CtxInv.setCtx {s : State} (h : CtxInv s) {v : Variant} {c : AesCtx} (hc : Regenerable v c) :
    CtxInv (setCtx v c s) := by
  intro w
  by_cases hw : w = v
  · subst hw
    rwa [ctxOf_setCtx_self]
  · rw [ctxOf_setCtx_ne hw]
    exact h w

/-- A command writes an AES context by SETKEY or by CLEAR only. -/
theorem Completes.ctxInv {i : Instr} {s t : State} (h : Completes s i t) (hs : CtxInv s) : CtxInv t := by
  cases h with
  | setKey v hK => exact hs.setCtx (regenerable_aesSetup hK)
  | clear v => exact hs.setCtx (regenerable_cleared v)
  | stream => exact hs.congr (streamBytes_ctx _ _ _ _)
  | sector => exact hs.congr (sectorBlocks_ctx _ _ _ _ _)
  | _ => exact hs

/-- Settles O56, by the kinds of step: reset clears every context, and a command writes one by SETKEY or CLEAR only. -/
theorem stepKeepsContextsRegenerable : Obligations.StepKeepsContextsRegenerable := by
  intro s t hs h
  cases step_effect h with
  | idle | read | register | memory | reserved => exact hs
  | reset => exact fun v => .inl (ctxOf_reset v)
  | command _ _ he =>
    cases he with
    | raises => exact hs
    | completes _ hc => exact hc.ctxInv hs

/-! ### The EAX context (10_state.md R40 to R43; 42_eax.md R233 to R247) -/

/-- What SETKEY fixes of the EAX context: the cipher and the MAC subkeys (R233, R240). -/
def Eax.key (e : Eax) : Variant × AesCtx × Block × Block := (e.v, e.ciph, e.mac.k1, e.mac.k2)

@[simp] theorem macInit_key (t : Byte) (e : Eax) : (macInit t e).key = e.key := rfl
@[simp] theorem macInit_posn (t : Byte) (e : Eax) : (macInit t e).posn = e.posn := rfl
@[simp] theorem macInit_blen (t : Byte) (e : Eax) : (macInit t e).mac.blen = 16 := rfl

@[simp] theorem macClose_key (e : Eax) : (macClose e).key = e.key := rfl
@[simp] theorem macClose_posn (e : Eax) : (macClose e).posn = e.posn := rfl

@[simp] theorem macFlush_key (e : Eax) : (macFlush e).key = e.key := by unfold macFlush; split <;> rfl
@[simp] theorem macFlush_ph (e : Eax) : (macFlush e).ph = e.ph := by unfold macFlush; split <;> rfl
@[simp] theorem macFlush_posn (e : Eax) : (macFlush e).posn = e.posn := by unfold macFlush; split <;> rfl

/-- After the flush the pending block has room (R235). -/
theorem macFlush_blen_lt {e : Eax} (h : e.mac.blen ≤ 16) : (macFlush e).mac.blen < 16 := by
  unfold macFlush
  split
  · simp
  · omega

@[simp] theorem macAbsorb_key (e : Eax) (b : Byte) : (macAbsorb e b).key = e.key := macFlush_key e
@[simp] theorem macAbsorb_ph (e : Eax) (b : Byte) : (macAbsorb e b).ph = e.ph := macFlush_ph e
@[simp] theorem macAbsorb_posn (e : Eax) (b : Byte) : (macAbsorb e b).posn = e.posn := macFlush_posn e

theorem macAbsorb_blen (e : Eax) (b : Byte) : (macAbsorb e b).mac.blen = (macFlush e).mac.blen + 1 := rfl

@[simp] theorem macAbsorbAll_key (e : Eax) (M : List Byte) : (macAbsorbAll e M).key = e.key := by
  induction M generalizing e with
  | nil => rfl
  | cons b M ih => exact (ih (macAbsorb e b)).trans (macAbsorb_key e b)

@[simp] theorem ksRefill_key (e : Eax) : (ksRefill e).key = e.key := by unfold ksRefill; split <;> rfl
@[simp] theorem ksRefill_ph (e : Eax) : (ksRefill e).ph = e.ph := by unfold ksRefill; split <;> rfl
@[simp] theorem ksRefill_blen (e : Eax) : (ksRefill e).mac.blen = e.mac.blen := by unfold ksRefill; split <;> rfl

/-- After the refill a keystream byte is left (R239). -/
theorem ksRefill_posn_lt {e : Eax} (h : e.posn ≤ 16) : (ksRefill e).posn < 16 := by
  unfold ksRefill
  split
  · simp
  · omega

@[simp] theorem ksNext_key (e : Eax) : (ksNext e).2.key = e.key := ksRefill_key e
@[simp] theorem ksNext_ph (e : Eax) : (ksNext e).2.ph = e.ph := ksRefill_ph e
@[simp] theorem ksNext_blen (e : Eax) : (ksNext e).2.mac.blen = e.mac.blen := ksRefill_blen e

theorem ksNext_posn (e : Eax) : (ksNext e).2.posn = (ksRefill e).posn + 1 := rfl

/-- `CloseAuth()` in phase AUTH (R243). -/
theorem closeAuth_of_auth {e : Eax} (h : e.ph = .auth) :
    closeAuth e = { macInit 2 { macClose e with hash := macValue e } with ph := .cipher } := if_pos h

/-- `CloseAuth()` in any other phase (R243). -/
theorem closeAuth_of_ne_auth {e : Eax} (h : e.ph ≠ .auth) : closeAuth e = e := if_neg h

@[simp] theorem closeAuth_key (e : Eax) : (closeAuth e).key = e.key := by unfold closeAuth; split <;> rfl

/-- After `CloseAuth()` an open MAC is that of the ciphertext (R243). -/
theorem closeAuth_ph {e : Eax} (h : e.ph = .auth ∨ e.ph = .cipher) : (closeAuth e).ph = .cipher := by
  rcases h with h | h
  · rw [closeAuth_of_auth h]
  · rw [closeAuth_of_ne_auth (by simp [h]), h]

/-- `Finalize()` while a MAC is open (R246). -/
theorem finalize_of_open {e : Eax} (h : e.ph = .auth ∨ e.ph = .cipher) :
    finalize e = { macClose (closeAuth e) with
      tag := xorBlock (xorBlock (closeAuth e).tag (closeAuth e).hash) (macValue (closeAuth e)), ph := .done } :=
  if_pos (closeAuth_ph h)

/-- `Finalize()` while no MAC is open (R246). -/
theorem finalize_of_not_open {e : Eax} (h : ¬(e.ph = .auth ∨ e.ph = .cipher)) : finalize e = e := by
  obtain ⟨ha, hc⟩ := not_or.1 h
  simp [finalize, closeAuth_of_ne_auth ha, hc]

@[simp] theorem finalize_key (e : Eax) : (finalize e).key = e.key := by
  simp only [finalize]
  split <;> exact closeAuth_key e

@[simp] theorem eaxStart_key (nonce : List Byte) (e : Eax) : (eaxStart nonce e).key = e.key :=
  macAbsorbAll_key (macInit 0 e) nonce

@[simp] theorem eaxStart_blen (nonce : List Byte) (e : Eax) : (eaxStart nonce e).mac.blen = 16 := rfl

/-- What each byte of a stream keeps of the EAX context, the whole stream keeps (R244, R245). -/
theorem streamBytes_eax {P : Eax → Prop} (hP : ∀ e b, P e → P (macAbsorb (ksNext e).2 b)) (d : Bool) :
    ∀ (n i : Nat) (s : State), P s.eax → P (streamBytes d n i s).eax
  | 0, _, _, h => h
  | n + 1, i, s, h => streamBytes_eax hP d n (i + 1) (streamByte d i s) (hP s.eax _ h)

/-! ### The EAX invariant (10_state.md R40, R42, R233, R235, R237) -/

/-- The cipher is keyed, and the MAC subkeys are its own. -/
structure EaxKeyed (e : Eax) : Prop where
  regenerable : Regenerable e.v e.ciph
  keyed : e.ciph.keyed = true
  subkeys : SubkeysDerived e

/-- A MAC is open, with 1 to 16 bytes pending. -/
structure MacOpen (e : Eax) : Prop where
  phase : e.ph = .auth ∨ e.ph = .cipher
  posn : e.posn ≤ 16
  pending : 1 ≤ e.mac.blen
  capacity : e.mac.blen ≤ 16

/-- There is a key, and no MAC is open. -/
structure MacIdle (e : Eax) : Prop where
  phase : e.ph = .noIv ∨ e.ph = .done
  posn : e.posn ≤ 16
  acc : e.mac.acc = Block.zero
  buf : e.mac.buf = Block.zero
  blen : e.mac.blen = 0

theorem MacOpen.ph_ne_noKey {e : Eax} (h : MacOpen e) : e.ph ≠ .noKey := by
  rcases h.phase with hp | hp <;> simp [hp]

theorem MacIdle.ph_ne_noKey {e : Eax} (h : MacIdle e) : e.ph ≠ .noKey := by
  rcases h.phase with hp | hp <;> simp [hp]

theorem MacIdle.not_open {e : Eax} (h : MacIdle e) : ¬(e.ph = .auth ∨ e.ph = .cipher) := by
  rcases h.phase with hp | hp <;> simp [hp]

/-- The EAX context is cleared, or it is keyed and a MAC is open or not. -/
theorem eaxInv_iff (s : State) :
    EaxInv s ↔ s.eax = Eax.cleared ∨ EaxKeyed s.eax ∧ (MacOpen s.eax ∨ MacIdle s.eax) := by
  constructor
  · rintro ⟨hreg, hkeyed, hcleared, hsub, hposn, hblen, hopen, hidle⟩
    by_cases hk : s.eax.ph = .noKey
    · exact .inl (hcleared hk)
    · refine .inr ⟨⟨hreg, hkeyed.2 hk, hsub hk⟩, ?_⟩
      by_cases ho : s.eax.ph = .auth ∨ s.eax.ph = .cipher
      · exact .inl ⟨ho, hposn, hopen ho, hblen⟩
      · obtain ⟨hacc, hbuf, hzero⟩ := hidle ho
        refine .inr ⟨?_, hposn, hacc, hbuf, hzero⟩
        cases hp : s.eax.ph <;> simp_all
  · rintro (h | ⟨⟨hreg, hkeyed, hsub⟩, ho | hi⟩)
    · rw [EaxInv, h]
      exact eaxInv_reset
    · exact ⟨hreg, iff_of_true hkeyed ho.ph_ne_noKey, fun h => absurd h ho.ph_ne_noKey, fun _ => hsub, ho.posn,
        ho.capacity, fun _ => ho.pending, fun h => absurd ho.phase h⟩
    · have hblen := hi.blen
      exact ⟨hreg, iff_of_true hkeyed hi.ph_ne_noKey, fun h => absurd h hi.ph_ne_noKey, fun _ => hsub, hi.posn,
        by omega, fun h => absurd h hi.not_open, fun _ => ⟨hi.acc, hi.buf, hblen⟩⟩

theorem EaxKeyed.congr {e e' : Eax} (h : EaxKeyed e) (hk : e'.key = e.key) : EaxKeyed e' := by
  simp only [Eax.key, Prod.mk.injEq] at hk
  obtain ⟨hv, hciph, hk1, hk2⟩ := hk
  obtain ⟨hreg, hkeyed, hsub⟩ := h
  refine ⟨by rwa [hv, hciph], by rwa [hciph], ?_⟩
  rwa [SubkeysDerived, eaxCipher, hv, hciph, hk1, hk2]

theorem eaxKeyed_setup {v : Variant} {K : List Quad} (hK : K.length = keyWords v) : EaxKeyed (eaxSetup v K) :=
  ⟨regenerable_aesSetup hK, aesSetup_keyed v K, rfl, rfl⟩

theorem macIdle_setup (v : Variant) (K : List Quad) : MacIdle (eaxSetup v K) :=
  ⟨.inl rfl, Nat.zero_le _, rfl, rfl, rfl⟩

/-- SETIV opens the associated-data MAC (R241). -/
theorem macOpen_start (nonce : List Byte) (e : Eax) : MacOpen (eaxStart nonce e) :=
  ⟨.inl rfl, le_rfl, by simp, le_rfl⟩

theorem MacOpen.absorb {e : Eax} (h : MacOpen e) (b : Byte) : MacOpen (macAbsorb e b) := by
  have hroom := macFlush_blen_lt h.capacity
  exact ⟨by simpa using h.phase, by simpa using h.posn, by simp [macAbsorb_blen], by rw [macAbsorb_blen]; omega⟩

theorem MacOpen.absorbAll {e : Eax} (h : MacOpen e) (M : List Byte) : MacOpen (macAbsorbAll e M) := by
  induction M generalizing e with
  | nil => exact h
  | cons b M ih => exact ih (h.absorb b)

theorem MacOpen.ksNext {e : Eax} (h : MacOpen e) : MacOpen (ksNext e).2 := by
  have hleft := ksRefill_posn_lt h.posn
  exact ⟨by simpa using h.phase, by rw [ksNext_posn]; omega, by simpa using h.pending, by simpa using h.capacity⟩

theorem MacOpen.closeAuth {e : Eax} (h : MacOpen e) : MacOpen (closeAuth e) := by
  by_cases ha : e.ph = .auth
  · rw [closeAuth_of_auth ha]
    exact ⟨.inr rfl, h.posn, by simp, by simp⟩
  · rwa [closeAuth_of_ne_auth ha]

/-- `Finalize()` leaves no MAC open (R246). -/
theorem MacOpen.finalize {e : Eax} (h : MacOpen e) : MacIdle (finalize e) := by
  rw [finalize_of_open h.phase]
  exact ⟨.inr rfl, h.closeAuth.posn, rfl, rfl, rfl⟩

theorem MacIdle.finalize {e : Eax} (h : MacIdle e) : MacIdle (finalize e) := by
  rwa [finalize_of_not_open h.not_open]

section EaxStep

variable {s t : State}

/-- Outside NOKEY the invariant gives a key and the state of the MAC. -/
theorem EaxInv.keyed (h : EaxInv s) (hk : s.eax.ph ≠ .noKey) :
    EaxKeyed s.eax ∧ (MacOpen s.eax ∨ MacIdle s.eax) := by
  refine ((eaxInv_iff s).1 h).resolve_left fun hc => hk ?_
  rw [hc]
  rfl

/-- In AUTH and CIPHER a MAC is open. -/
theorem EaxInv.macOpen (h : EaxInv s) (hp : s.eax.ph = .auth ∨ s.eax.ph = .cipher) :
    EaxKeyed s.eax ∧ MacOpen s.eax := by
  have hk : s.eax.ph ≠ .noKey := by rcases hp with hp | hp <;> simp [hp]
  obtain ⟨hkeyed, hopen | hidle⟩ := h.keyed hk
  · exact ⟨hkeyed, hopen⟩
  · exact absurd hp hidle.not_open

theorem eaxInv_of_cleared (h : t.eax = Eax.cleared) : EaxInv t := (eaxInv_iff t).2 (.inl h)

theorem eaxInv_of_open (hk : EaxKeyed t.eax) (ho : MacOpen t.eax) : EaxInv t := (eaxInv_iff t).2 (.inr ⟨hk, .inl ho⟩)

theorem eaxInv_of_idle (hk : EaxKeyed t.eax) (hi : MacIdle t.eax) : EaxInv t := (eaxInv_iff t).2 (.inr ⟨hk, .inr hi⟩)

theorem EaxInv.congr (h : EaxInv s) (he : t.eax = s.eax) : EaxInv t := by
  rwa [EaxInv, he]

/-- EAX.TAG and EAX.CHKTAG (R246). -/
theorem EaxInv.finalize (h : EaxInv s) (hk : s.eax.ph ≠ .noKey) (ht : t.eax = finalize s.eax) : EaxInv t := by
  obtain ⟨hkeyed, hmac⟩ := h.keyed hk
  rw [eaxInv_iff, ht]
  exact .inr ⟨hkeyed.congr (finalize_key s.eax), .inr (hmac.elim MacOpen.finalize MacIdle.finalize)⟩

theorem Completes.eaxInv {i : Instr} (h : Completes s i t) (hs : EaxInv s) : EaxInv t := by
  cases h with
  | eaxSetkey v hK => exact eaxInv_of_idle (eaxKeyed_setup hK) (macIdle_setup v _)
  | eaxSetiv hk =>
    obtain ⟨hkeyed, _⟩ := hs.keyed hk
    exact eaxInv_of_open (hkeyed.congr (eaxStart_key _ _)) (macOpen_start _ _)
  | eaxAad ha =>
    obtain ⟨hkeyed, hopen⟩ := hs.macOpen (.inl ha)
    exact eaxInv_of_open (hkeyed.congr (macAbsorbAll_key _ _)) (hopen.absorbAll _)
  | stream d _ hp =>
    obtain ⟨hkeyed, hopen⟩ := hs.macOpen hp
    obtain ⟨hkeyed', hopen'⟩ := streamBytes_eax (P := fun e => EaxKeyed e ∧ MacOpen e)
      (fun e b ⟨hk, ho⟩ => ⟨hk.congr (by simp), ho.ksNext.absorb b⟩) d s.len.toNat 0 { s with eax := closeAuth s.eax }
      ⟨hkeyed.congr (closeAuth_key _), hopen.closeAuth⟩
    exact eaxInv_of_open hkeyed' hopen'
  | eaxTag hk | eaxMatch hk | eaxMismatch hk => exact hs.finalize hk rfl
  | eaxClear => exact eaxInv_of_cleared rfl
  | sector f T => exact hs.congr (by rw [complete_eax, sectorBlocks_frame])
  | _ => exact hs

end EaxStep

/-- Settles O57, by the kinds of step: reset clears the context, and each EAX command leaves it cleared, or keyed with a
MAC open or not. -/
theorem stepKeepsTheEaxInvariant : Obligations.StepKeepsTheEaxInvariant := by
  intro s t hs h
  cases step_effect h with
  | idle | read | register | memory | reserved => exact hs
  | reset => exact eaxInv_of_cleared rfl
  | command _ _ he =>
    cases he with
    | raises => exact hs
    | completes _ hc => exact hc.eaxInv hs

/-! ### What no command changes (10_state.md R25 to R29, R35) -/

/-- The registers the host alone writes, the platform's parameters and the run. -/
def hostSide (s : State) : Word × Word × Word × Word × Word × Params × List HostAction × List HostRead :=
  (s.cmd, s.src, s.dst, s.len, s.arg, s.params, s.actions, s.reads)

@[simp] theorem streamBytes_hostSide (d : Bool) (n i : Nat) (s : State) :
    hostSide (streamBytes d n i s) = hostSide s := by
  rw [streamBytes_frame]
  rfl

@[simp] theorem sectorBlocks_hostSide (f : Block → Block → Block) (n k : Nat) (T : Block) (s : State) :
    hostSide (sectorBlocks f n k T s) = hostSide s := by
  rw [sectorBlocks_frame]
  rfl

@[simp] theorem sectorBlocks_eax (f : Block → Block → Block) (n k : Nat) (T : Block) (s : State) :
    (sectorBlocks f n k T s).eax = s.eax := by
  rw [sectorBlocks_frame]

@[simp] theorem ownerOf_setkeyOf (v : Variant) : ownerOf (setkeyOf v) = .aes v := by cases v <;> rfl

@[simp] theorem ownerOf_clearOf (v : Variant) : ownerOf (clearOf v) = .aes v := by cases v <;> rfl

theorem ownerOf_of_stream {i : Instr} (h : formatOf i = .stream) : ownerOf i = .eax := by
  cases i with
  | eaxEnc | eaxDec => rfl
  | _ => cases h

section Frame

variable {i : Instr} {s t : State}

theorem Completes.hostSide (h : Completes s i t) : hostSide t = hostSide s := by
  cases h with
  | stream d => exact streamBytes_hostSide d _ _ _
  | sector f T => exact sectorBlocks_hostSide f _ _ T s
  | _ => rfl

theorem Ends.hostSide (h : Ends i s t) : hostSide t = hostSide s := by
  cases h with
  | raises => rfl
  | completes _ hc => exact hc.hostSide

/-- SETKEY and CLEAR of a variant write its context; no other command writes an AES context. -/
theorem Completes.ctxOf (h : Completes s i t) {v : Variant} (hv : ownerOf i ≠ .aes v) : ctxOf v t = ctxOf v s := by
  cases h with
  | setKey w | clear w =>
    have hne : v ≠ w := fun e => hv (by simp [e])
    exact ctxOf_setCtx_ne hne _ s
  | stream d => exact congrArg (·[ctxIndex v]) (streamBytes_ctx d _ _ _)
  | sector f T => exact congrArg (·[ctxIndex v]) (sectorBlocks_ctx f _ _ T s)
  | _ => rfl

theorem Completes.eax (h : Completes s i t) (ho : ownerOf i ≠ .eax) : t.eax = s.eax := by
  cases h with
  | eaxSetkey | eaxSetiv | eaxAad | eaxTag | eaxMatch | eaxMismatch | eaxClear => exact absurd rfl ho
  | stream d hf => exact absurd (ownerOf_of_stream hf) ho
  | sector f T => exact sectorBlocks_eax f _ _ T s
  | _ => rfl

theorem Completes.xts (h : Completes s i t) (ho : ownerOf i ≠ .xts) : t.xts = s.xts := by
  cases h with
  | xtsSetkey | xtsSettweak | xtsSetsect | xtsClear => exact absurd rfl ho
  | stream d => exact streamBytes_xts d _ _ _
  | sector f T => exact sectorBlocks_xts f _ _ T s
  | _ => rfl

end Frame

/-- Settles O12: a command that raises or completes keeps the host's side of the state. -/
theorem commandsKeepTheOperandRegisters : Obligations.CommandsKeepTheOperandRegisters := by
  intro i s t h
  simpa only [hostSide, Prod.mk.injEq] using (exec_ends h).hostSide

/-- Settles O14: a command that raises keeps every context, and one that completes those of the other units. -/
theorem commandsKeepOtherUnits : Obligations.CommandsKeepOtherUnits := by
  intro i s t h
  cases exec_ends h with
  | raises => exact ⟨fun _ _ => rfl, fun _ => rfl, fun _ => rfl⟩
  | completes _ hc => exact ⟨fun _ hv => hc.ctxOf hv, hc.eax, hc.xts⟩

/-! ### What a command sees (10_state.md R29, R35; 30_encoding.md R88, R89; 40_aes_primitives.md R155)

The operand registers a format does not list and the contexts of other units are exchanged for those of another state,
and the command is the same one on what is left. -/

/-- A function of the state, on an outcome. -/
def mapNext (g : State → State) : Host.Outcome State Fault Refusal → Host.Outcome State Fault Refusal
  | .next s => .next (g s)
  | .fault r => .fault r
  | .refused r => .refused r

@[simp] theorem mapNext_next (g : State → State) (s : State) : mapNext g (next s) = next (g s) := rfl

/-- `s` with the operand registers of `u`, and with the contexts of `u` but for the unit `o`. -/
def withUnseen (o : Owner) (u s : State) : State :=
  { s with
    cmd := u.cmd, src := u.src, dst := u.dst, len := u.len, arg := u.arg
    ctx := match o with
      | .aes v => u.ctx.set (ctxIndex v) (ctxOf v s)
      | _ => u.ctx
    eax := match o with
      | .eax => s.eax
      | _ => u.eax
    xts := match o with
      | .xts => s.xts
      | _ => u.xts }

/-- `u` and `s` agree in the operand registers, and in the bits of ARG, that a format lists (R88, column 2). -/
structure SameOperands (f : Format) (u s : State) : Prop where
  src : readsSrc f = true → u.src = s.src
  dst : readsDst f = true → u.dst = s.dst
  len : readsLen f = true → u.len = s.len
  arg : u.arg &&& argMask f = s.arg &&& argMask f

section Unseen

variable {o : Owner} {u s : State}

@[simp] theorem withUnseen_src : (withUnseen o u s).src = u.src := rfl
@[simp] theorem withUnseen_dst : (withUnseen o u s).dst = u.dst := rfl
@[simp] theorem withUnseen_len : (withUnseen o u s).len = u.len := rfl
@[simp] theorem withUnseen_arg : (withUnseen o u s).arg = u.arg := rfl
@[simp] theorem withUnseen_dmem : (withUnseen o u s).dmem = s.dmem := rfl
@[simp] theorem withUnseen_params : (withUnseen o u s).params = s.params := rfl
@[simp] theorem withUnseen_eax : (withUnseen .eax u s).eax = s.eax := rfl
@[simp] theorem withUnseen_xts : (withUnseen .xts u s).xts = s.xts := rfl

@[simp] theorem ctxOf_withUnseen (v : Variant) : ctxOf v (withUnseen (.aes v) u s) = ctxOf v s := by
  simp [ctxOf, withUnseen]

@[simp] theorem raise_withUnseen (c : Code) : raise c (withUnseen o u s) = withUnseen o u (raise c s) := rfl
@[simp] theorem complete_withUnseen : complete (withUnseen o u s) = withUnseen o u (complete s) := rfl
@[simp] theorem setResult_withUnseen (v : Word) : setResult v (withUnseen o u s) = withUnseen o u (setResult v s) := rfl

theorem writeDst_withUnseen (h : u.dst = s.dst) (bs : List Byte) :
    writeDst bs (withUnseen o u s) = withUnseen o u (writeDst bs s) :=
  congrArg (fun a : Word => withUnseen o u { s with dmem := memWrite s.dmem a.toNat bs }) h

@[simp] theorem setCtx_withUnseen (v : Variant) (c : AesCtx) :
    setCtx v c (withUnseen (.aes v) u s) = withUnseen (.aes v) u (setCtx v c s) := by
  simp [setCtx, withUnseen, ctxOf]

theorem setEax_withUnseen (e : Eax) :
    { withUnseen .eax u s with eax := e } = withUnseen .eax u { s with eax := e } := rfl

theorem setXts_withUnseen (x : Xts) :
    { withUnseen .xts u s with xts := x } = withUnseen .xts u { s with xts := x } := rfl

theorem readSrc_withUnseen (h : u.src = s.src) (n : Nat) : readSrc n (withUnseen o u s) = readSrc n s := by
  simp [readSrc, h]

theorem readDst_withUnseen (h : u.dst = s.dst) (n : Nat) : readDst n (withUnseen o u s) = readDst n s := by
  simp [readDst, h]

theorem tagBytes_withUnseen (h : u.len = s.len) : tagBytes (withUnseen o u s) = tagBytes s := by
  simp [tagBytes, h]

/-- The ranges a format checks are those of the registers it lists, and for SECTOR of the sector size (R88, column 3). -/
theorem operandsInRange_withUnseen {f : Format} (h : SameOperands f u s) (hx : f = .sector → o = .xts) :
    operandsInRange f (withUnseen o u s) = operandsInRange f s := by
  have hsrc := h.src
  have hdst := h.dst
  have hlen := h.len
  cases f <;> simp_all [operandsInRange, formatRanges, readsSrc, readsDst, readsLen, tagBytes]

/-- A field of ARG that the mask covers (R89). -/
theorem extractLsb'_of_masked {x y m : Word} (start n : Nat) (hm : m.extractLsb' start n = BitVec.allOnes n)
    (h : x &&& m = y &&& m) : x.extractLsb' start n = y.extractLsb' start n := by
  have h' := congrArg (BitVec.extractLsb' start n) h
  simpa [BitVec.extractLsb'_and, hm] using h'

theorem argA_withUnseen {f : Format} (h : SameOperands f u s)
    (hm : (argMask f).extractLsb' 0 8 = BitVec.allOnes 8) : argA (withUnseen o u s) = argA s :=
  extractLsb'_of_masked 0 8 hm h.arg

theorem argB_withUnseen {f : Format} (h : SameOperands f u s)
    (hm : (argMask f).extractLsb' 8 8 = BitVec.allOnes 8) : argB (withUnseen o u s) = argB s :=
  extractLsb'_of_masked 8 8 hm h.arg

theorem argVariant_withUnseen {f : Format} (h : SameOperands f u s)
    (hm : (argMask f).extractLsb' 0 3 = BitVec.allOnes 3) : argVariant (withUnseen o u s) = argVariant s :=
  congrArg variantOfCode (extractLsb'_of_masked 0 3 hm h.arg)

theorem argM_withUnseen {f : Format} (h : SameOperands f u s) (hm : (argMask f).getLsbD 8 = true) :
    argM (withUnseen o u s) = argM s := by
  have h' := congrArg (BitVec.getLsbD · 8) h.arg
  simp only [BitVec.getLsbD_and, hm, Bool.and_true] at h'
  exact h'

theorem roundIndex_withUnseen {f : Format} (h : SameOperands f u s)
    (hm : (argMask f).extractLsb' 0 8 = BitVec.allOnes 8) : roundIndex (withUnseen o u s) = roundIndex s := by
  simp only [roundIndex, argA_withUnseen h hm]

/-! #### The loops over bytes and blocks -/

theorem streamByte_withUnseen (d : Bool) (i : Nat) (hsrc : u.src = s.src) (hdst : u.dst = s.dst) :
    streamByte d i (withUnseen .eax u s) = withUnseen .eax u (streamByte d i s) := by
  cases u
  cases hsrc
  cases hdst
  rfl

theorem streamBytes_withUnseen (d : Bool) : ∀ (n i : Nat) {s : State}, u.src = s.src → u.dst = s.dst →
    streamBytes d n i (withUnseen .eax u s) = withUnseen .eax u (streamBytes d n i s)
  | 0, _, _, _, _ => rfl
  | n + 1, i, s, hsrc, hdst => by
    rw [streamBytes, streamByte_withUnseen d i hsrc hdst]
    exact streamBytes_withUnseen d n (i + 1) (s := streamByte d i s) hsrc hdst

/-- One turn of the block loop (R278, R279). -/
def sectorBlock (f : Block → Block → Block) (k : Nat) (T : Block) (s : State) : State :=
  { s with
    dmem := memWrite s.dmem (s.dst.toNat + 16 * k)
      (blockBytes (f T (blockOfBytes (memRead s.dmem (s.src.toNat + 16 * k) 16)))) }

@[simp] theorem sectorBlock_src (f : Block → Block → Block) (k : Nat) (T : Block) (s : State) :
    (sectorBlock f k T s).src = s.src := by
  simp only [sectorBlock]

@[simp] theorem sectorBlock_dst (f : Block → Block → Block) (k : Nat) (T : Block) (s : State) :
    (sectorBlock f k T s).dst = s.dst := by
  simp only [sectorBlock]

theorem sectorBlocks_succ (f : Block → Block → Block) (n k : Nat) (T : Block) (s : State) :
    sectorBlocks f (n + 1) k T s = sectorBlocks f n (k + 1) (dblLe T) (sectorBlock f k T s) := by
  simp only [sectorBlocks, sectorBlock]

theorem sectorBlock_withUnseen (f : Block → Block → Block) (k : Nat) (T : Block) (hsrc : u.src = s.src)
    (hdst : u.dst = s.dst) :
    sectorBlock f k T (withUnseen o u s) = withUnseen o u (sectorBlock f k T s) := by
  cases u
  cases hsrc
  cases hdst
  rfl

theorem sectorBlocks_withUnseen (f : Block → Block → Block) : ∀ (n k : Nat) (T : Block) {s : State},
    u.src = s.src → u.dst = s.dst →
    sectorBlocks f n k T (withUnseen o u s) = withUnseen o u (sectorBlocks f n k T s)
  | 0, _, _, _, _, _ => rfl
  | n + 1, k, T, s, hsrc, hdst => by
    rw [sectorBlocks_succ, sectorBlock_withUnseen f k T hsrc hdst]
    exact sectorBlocks_withUnseen f n (k + 1) (dblLe T) (by simp [hsrc]) (by simp [hdst])

/-! #### The shapes that commands share -/

theorem blockCommand_withUnseen {f : Block → Block} (h : SameOperands .blk u s) :
    blockCommand f (withUnseen o u s) = mapNext (withUnseen o u) (blockCommand f s) := by
  simp [blockCommand, operandsInRange_withUnseen h, readSrc_withUnseen (h.src rfl), writeDst_withUnseen (h.dst rfl),
    apply_ite (withUnseen o u)]

theorem windowCommand_withUnseen {n : Nat} {f : List Quad → Nat → List Quad} (h : SameOperands (.win n) u s) :
    windowCommand n f (withUnseen o u s) = mapNext (withUnseen o u) (windowCommand n f s) := by
  rw [windowCommand, roundIndex_withUnseen h rfl, windowCommand]
  cases roundIndex s with
  | none => rfl
  | some i =>
    simp [operandsInRange_withUnseen h, readSrc_withUnseen (h.src rfl), writeDst_withUnseen (h.dst rfl),
      apply_ite (withUnseen o u)]

theorem setKeyCommand_withUnseen {v : Variant} (h : SameOperands .key u s) :
    setKeyCommand v (withUnseen (.aes v) u s) = mapNext (withUnseen (.aes v) u) (setKeyCommand v s) := by
  simp [setKeyCommand, operandsInRange_withUnseen h, readSrc_withUnseen (h.src rfl), h.len rfl,
    apply_ite (withUnseen (.aes v) u)]

theorem cipherCommand_withUnseen {f : AesCtx → Variant → Block → Block} {v : Variant} (h : SameOperands .blk u s) :
    cipherCommand f v (withUnseen (.aes v) u s) = mapNext (withUnseen (.aes v) u) (cipherCommand f v s) := by
  simp [cipherCommand, operandsInRange_withUnseen h, readSrc_withUnseen (h.src rfl), writeDst_withUnseen (h.dst rfl),
    apply_ite (withUnseen (.aes v) u)]

theorem clearCommand_withUnseen {v : Variant} :
    clearCommand v (withUnseen (.aes v) u s) = mapNext (withUnseen (.aes v) u) (clearCommand v s) := by
  simp [clearCommand]

theorem streamCommand_withUnseen {d : Bool} (h : SameOperands .stream u s) :
    streamCommand d (withUnseen .eax u s) = mapNext (withUnseen .eax u) (streamCommand d s) := by
  have hloop := streamBytes_withUnseen d s.len.toNat 0 (u := u) (s := { s with eax := closeAuth s.eax })
    (h.src rfl) (h.dst rfl)
  simp [streamCommand, operandsInRange_withUnseen h, h.len rfl, hloop,
    apply_ite (withUnseen .eax u), ↓setEax_withUnseen]

theorem sectorCommand_withUnseen {f : Xts → Block → Block → Block} (h : SameOperands .sector u s) :
    sectorCommand f (withUnseen .xts u s) = mapNext (withUnseen .xts u) (sectorCommand f s) := by
  simp [sectorCommand, operandsInRange_withUnseen h, sectorBlocks_withUnseen _ _ _ _ (h.src rfl) (h.dst rfl),
    apply_ite (withUnseen .xts u)]

/-! #### The other commands -/

theorem execArk_withUnseen (h : SameOperands .blk2 u s) :
    execArk (withUnseen o u s) = mapNext (withUnseen o u) (execArk s) := by
  simp [execArk, operandsInRange_withUnseen h, readSrc_withUnseen (h.src rfl), readDst_withUnseen (h.dst rfl),
    writeDst_withUnseen (h.dst rfl), apply_ite (withUnseen o u)]

theorem execSubword_withUnseen (h : SameOperands .word u s) :
    execSubword (withUnseen o u s) = mapNext (withUnseen o u) (execSubword s) := by
  simp [execSubword, operandsInRange_withUnseen h, readSrc_withUnseen (h.src rfl), writeDst_withUnseen (h.dst rfl),
    apply_ite (withUnseen o u)]

theorem execKcore_withUnseen (h : SameOperands .wordI u s) :
    execKcore (withUnseen o u s) = mapNext (withUnseen o u) (execKcore s) := by
  rw [execKcore, roundIndex_withUnseen h rfl, execKcore]
  cases roundIndex s with
  | none => rfl
  | some i =>
    simp [operandsInRange_withUnseen h, readSrc_withUnseen (h.src rfl), writeDst_withUnseen (h.dst rfl),
      apply_ite (withUnseen o u)]

theorem execRcon_withUnseen (h : SameOperands .byte u s) :
    execRcon (withUnseen o u s) = mapNext (withUnseen o u) (execRcon s) := by
  rw [execRcon, roundIndex_withUnseen h rfl, execRcon]
  cases roundIndex s <;> rfl

theorem execEaxSetkey_withUnseen (h : SameOperands .keyV u s) :
    execEaxSetkey (withUnseen .eax u s) = mapNext (withUnseen .eax u) (execEaxSetkey s) := by
  rw [execEaxSetkey, argVariant_withUnseen h rfl, execEaxSetkey]
  cases argVariant s with
  | none => rfl
  | some v =>
    simp [operandsInRange_withUnseen h, readSrc_withUnseen (h.src rfl), h.len rfl,
      apply_ite (withUnseen .eax u), ↓setEax_withUnseen]

theorem execEaxSetiv_withUnseen (h : SameOperands .input u s) :
    execEaxSetiv (withUnseen .eax u s) = mapNext (withUnseen .eax u) (execEaxSetiv s) := by
  simp [execEaxSetiv, operandsInRange_withUnseen h, readSrc_withUnseen (h.src rfl), h.len rfl,
    apply_ite (withUnseen .eax u), ↓setEax_withUnseen]

theorem execEaxAad_withUnseen (h : SameOperands .input u s) :
    execEaxAad (withUnseen .eax u s) = mapNext (withUnseen .eax u) (execEaxAad s) := by
  simp [execEaxAad, operandsInRange_withUnseen h, readSrc_withUnseen (h.src rfl), h.len rfl,
    apply_ite (withUnseen .eax u), ↓setEax_withUnseen]

theorem execEaxTag_withUnseen (h : SameOperands .output u s) :
    execEaxTag (withUnseen .eax u s) = mapNext (withUnseen .eax u) (execEaxTag s) := by
  have hwrite := fun e bs => writeDst_withUnseen (o := .eax) (u := u) (s := { s with eax := e }) (h.dst rfl) bs
  simp [execEaxTag, operandsInRange_withUnseen h, tagBytes_withUnseen (h.len rfl), hwrite,
    apply_ite (withUnseen .eax u), ↓setEax_withUnseen]

/-- The end of EAX.CHKTAG on a mismatch (R249). -/
theorem mismatch_withUnseen (e : Eax) (v : Word) :
    { complete (setResult v { withUnseen .eax u s with eax := e }) with code := .tagMismatch } =
      withUnseen .eax u { complete (setResult v { s with eax := e }) with code := .tagMismatch } := rfl

theorem execEaxChktag_withUnseen (h : SameOperands .check u s) :
    execEaxChktag (withUnseen .eax u s) = mapNext (withUnseen .eax u) (execEaxChktag s) := by
  simp [execEaxChktag, operandsInRange_withUnseen h, readSrc_withUnseen (h.src rfl), tagBytes_withUnseen (h.len rfl),
    h.len rfl, apply_ite (withUnseen .eax u), ↓mismatch_withUnseen, ↓setEax_withUnseen]

theorem execEaxKeysize_withUnseen (h : SameOperands .qv u s) :
    execEaxKeysize (withUnseen o u s) = mapNext (withUnseen o u) (execEaxKeysize s) := by
  rw [execEaxKeysize, argVariant_withUnseen h rfl, execEaxKeysize]
  cases argVariant s <;> rfl

theorem execXtsSetkey_withUnseen (h : SameOperands .keyVM u s) :
    execXtsSetkey (withUnseen .xts u s) = mapNext (withUnseen .xts u) (execXtsSetkey s) := by
  rw [execXtsSetkey, argVariant_withUnseen h rfl, argM_withUnseen h rfl, execXtsSetkey]
  cases argVariant s with
  | none => rfl
  | some v =>
    simp [operandsInRange_withUnseen h, readSrc_withUnseen (h.src rfl), h.len rfl,
      apply_ite (withUnseen .xts u), ↓setXts_withUnseen]

theorem execXtsSettweak_withUnseen (h : SameOperands .input u s) :
    execXtsSettweak (withUnseen .xts u s) = mapNext (withUnseen .xts u) (execXtsSettweak s) := by
  simp [execXtsSettweak, operandsInRange_withUnseen h, readSrc_withUnseen (h.src rfl), h.len rfl,
    apply_ite (withUnseen .xts u), ↓setXts_withUnseen]

theorem execXtsSetsect_withUnseen (h : SameOperands .lenOnly u s) :
    execXtsSetsect (withUnseen .xts u s) = mapNext (withUnseen .xts u) (execXtsSetsect s) := by
  simp [execXtsSetsect, h.len rfl, apply_ite (withUnseen .xts u), ↓setXts_withUnseen]

theorem execXtsKeysize_withUnseen (h : SameOperands .qvm u s) :
    execXtsKeysize (withUnseen o u s) = mapNext (withUnseen o u) (execXtsKeysize s) := by
  rw [execXtsKeysize, argVariant_withUnseen h rfl, argM_withUnseen h rfl, execXtsKeysize]
  cases argVariant s <;> rfl

end Unseen

/-- A command sees the registers its format lists, DMEM, the parameters and the context of its own unit, and leaves the
rest of the state in place. -/
theorem exec_withUnseen {i : Instr} {u s : State} (h : SameOperands (formatOf i) u s) :
    exec i (withUnseen (ownerOf i) u s) = mapNext (withUnseen (ownerOf i) u) (exec i s) := by
  cases i with
  | nop => rfl
  | subbytes | shiftrows | isubbytes | ishiftrows | mixc | imixc => exact blockCommand_withUnseen h
  | sbsr => exact blockCommand_withUnseen (f := fun b => shiftRows (subBytes b)) h
  | isrsb => exact blockCommand_withUnseen (f := fun b => invSubBytes (invShiftRows b)) h
  | ark => exact execArk_withUnseen h
  | subb => exact congrArg (fun a => byteCommand (sbox a) _) (argA_withUnseen h rfl)
  | isubb => exact congrArg (fun a => byteCommand (sboxInv a) _) (argA_withUnseen h rfl)
  | xtime => exact congrArg (fun a => byteCommand (xtime a) _) (argA_withUnseen h rfl)
  | gmul =>
    exact congrArg₂ (fun a b => byteCommand (gmul a b) _) (argA_withUnseen h rfl) (argB_withUnseen h rfl)
  | rcon => exact execRcon_withUnseen h
  | kcore => exact execKcore_withUnseen h
  | subword => exact execSubword_withUnseen h
  | kstep128 | kstep192 | kstep256 | ikstep128 | ikstep192 | ikstep256 => exact windowCommand_withUnseen h
  | aesf128Setkey | aesf192Setkey | aesf256Setkey | aest128Setkey | aest256Setkey | aess128Setkey
  | aess256Setkey => exact setKeyCommand_withUnseen h
  | aesf128Enc | aesf192Enc | aesf256Enc | aest128Enc | aest256Enc | aess128Enc | aess256Enc =>
    exact cipherCommand_withUnseen h
  | aesf128Dec | aesf192Dec | aesf256Dec | aest128Dec | aest256Dec | aess128Dec | aess256Dec =>
    exact cipherCommand_withUnseen h
  | aesf128Clear | aesf192Clear | aesf256Clear | aest128Clear | aest256Clear | aess128Clear | aess256Clear =>
    exact clearCommand_withUnseen
  | aesf128Keysize | aesf192Keysize | aesf256Keysize | aest128Keysize | aest256Keysize | aess128Keysize
  | aess256Keysize => rfl
  | aesf128Blocksize | aesf192Blocksize | aesf256Blocksize | aest128Blocksize | aest256Blocksize
  | aess128Blocksize | aess256Blocksize => rfl
  | eaxSetkey => exact execEaxSetkey_withUnseen h
  | eaxSetiv => exact execEaxSetiv_withUnseen h
  | eaxAad => exact execEaxAad_withUnseen h
  | eaxEnc | eaxDec => exact streamCommand_withUnseen h
  | eaxTag => exact execEaxTag_withUnseen h
  | eaxChktag => exact execEaxChktag_withUnseen h
  | eaxKeysize => exact execEaxKeysize_withUnseen h
  | eaxClear | eaxIvsize | eaxTagsize => rfl
  | xtsSetkey => exact execXtsSetkey_withUnseen h
  | xtsSettweak => exact execXtsSettweak_withUnseen h
  | xtsSetsect => exact execXtsSetsect_withUnseen h
  | xtsEncsect | xtsDecsect => exact sectorCommand_withUnseen h
  | xtsKeysize => exact execXtsKeysize_withUnseen h
  | xtsGetsect | xtsClear | xtsTweaksize => rfl

theorem exec_withUnseen_of_next {i : Instr} {s t u : State} (h : exec i s = next t)
    (hu : SameOperands (formatOf i) u s) :
    exec i (withUnseen (ownerOf i) u s) = next (withUnseen (ownerOf i) u t) := by
  rw [exec_withUnseen hu, h, mapNext_next]

/-- The AES contexts are those of the seven variants (R35). -/
theorem ctx_ext {s t : State} (h : ∀ v, ctxOf v s = ctxOf v t) : s.ctx = t.ctx := by
  refine Vector.ext fun j hj => ?_
  interval_cases j
  · exact h .full128
  · exact h .full192
  · exact h .full256
  · exact h .tiny128
  · exact h .tiny256
  · exact h .small128
  · exact h .small256

section Exchange

variable {o : Owner} {u s : State}

/-- Where the unit's own context is the same, every context is exchanged. -/
theorem withUnseen_of_own (hctx : ∀ v, o = .aes v → ctxOf v u = ctxOf v s) (heax : o = .eax → u.eax = s.eax)
    (hxts : o = .xts → u.xts = s.xts) : withUnseen o u s =
      { s with
        cmd := u.cmd, src := u.src, dst := u.dst, len := u.len, arg := u.arg, ctx := u.ctx, eax := u.eax
        xts := u.xts } := by
  cases o with
  | none => rfl
  | aes v =>
    rw [withUnseen, ← hctx v rfl]
    simp [ctxOf]
  | eax => simp [withUnseen, heax rfl]
  | xts => simp [withUnseen, hxts rfl]

/-- Where the contexts of the other units are the same, the operand registers alone are exchanged. -/
theorem withUnseen_of_others (hctx : ∀ v, o ≠ .aes v → ctxOf v u = ctxOf v s) (heax : o ≠ .eax → u.eax = s.eax)
    (hxts : o ≠ .xts → u.xts = s.xts) : withUnseen o u s =
      { s with cmd := u.cmd, src := u.src, dst := u.dst, len := u.len, arg := u.arg } := by
  have hctx' : (withUnseen o u s).ctx = s.ctx := by
    refine ctx_ext fun v => ?_
    by_cases hv : o = .aes v
    · rw [hv, ctxOf_withUnseen]
    · rw [← hctx v hv]
      cases o with
      | aes w =>
        have hne : v ≠ w := fun e => hv (by rw [e])
        exact ctxOf_setCtx_ne hne (ctxOf w s) u
      | _ => rfl
  have heax' : (withUnseen o u s).eax = s.eax := by
    cases o with
    | eax => rfl
    | _ => exact heax nofun
  have hxts' : (withUnseen o u s).xts = s.xts := by
    cases o with
    | xts => rfl
    | _ => exact hxts nofun
  rw [← hctx', ← heax', ← hxts']
  rfl

end Exchange

/-- `s` with the contexts of `u`. -/
def withContexts (u s : State) : State := { s with ctx := u.ctx, eax := u.eax, xts := u.xts }

/-- `s` with other values in CMD, SRC, DST, LEN and ARG. -/
def withOperands (c a b l g : Word) (s : State) : State := { s with cmd := c, src := a, dst := b, len := l, arg := g }

/-- Settles O15: the contexts of `u` are exchanged for those of `s`, the operand registers are not. -/
theorem commandsUseNoOtherContext : Obligations.CommandsUseNoOtherContext := by
  intro i s u t h
  have hrun := exec_withUnseen_of_next h (u := withContexts u s) ⟨fun _ => rfl, fun _ => rfl, fun _ => rfl, rfl⟩
  refine ⟨fun ho => ?_, fun hctx heax hxts => ?_⟩
  · obtain ⟨hcmd, hsrc, hdst, hlen, harg, _⟩ := commandsKeepTheOperandRegisters i s t h
    rw [ho] at hrun
    refine hrun.trans ?_
    simp only [withUnseen, withContexts, hcmd, hsrc, hdst, hlen, harg]
  · rw [withUnseen_of_own (u := withContexts u s) (s := s) hctx heax hxts] at hrun
    exact ⟨_, hrun, rfl, rfl, rfl, fun v hv => by rw [hv, ctxOf_withUnseen], fun ho => by rw [ho]; rfl,
      fun ho => by rw [ho]; rfl⟩

/-- Settles O16: the operand registers are exchanged, and the contexts of the other units, which no command changes, are
those of `s`. -/
theorem unlistedRegistersHaveNoEffect : Obligations.UnlistedRegistersHaveNoEffect := by
  intro i s t c a b l g h hsrc hdst hlen harg
  have hrun := exec_withUnseen_of_next h (u := withOperands c a b l g s) ⟨hsrc, hdst, hlen, harg⟩
  obtain ⟨hctx, heax, hxts⟩ := commandsKeepOtherUnits i s t h
  rw [withUnseen_of_own (u := withOperands c a b l g s) (s := s) (fun _ _ => rfl) (fun _ => rfl) (fun _ => rfl),
    withUnseen_of_others (u := withOperands c a b l g s) (fun v hv => (hctx v hv).symm) (fun ho => (heax ho).symm)
      (fun ho => (hxts ho).symm)] at hrun
  exact hrun

/-! ### The tweak (10_state.md R45; 43_xts.md R271, R272, R275) -/

/-- A 128-bit integer as its four words, the least significant first (R45). -/
def tweakOfLE (x : BitVec 128) : Tweak :=
  ⟨x.extractLsb' 0 32, x.extractLsb' 32 32, x.extractLsb' 64 32, x.extractLsb' 96 32⟩

@[simp] theorem unpackWord_packWord (q : Quad) : unpackWord (packWord q) = q := by
  simp only [unpackWord, packWord, BitVec.extractLsb'_append_eq_ite]
  simp

@[simp] theorem unpack_pack (T : Block) : unpack (pack T) = T := by
  simp [unpack, pack]

/-- The packed words are those of the little-endian integer of the block. -/
theorem pack_eq_tweakOfLE (T : Block) : pack T = tweakOfLE (blockToLE T) := by
  simp only [pack, packWord, tweakOfLE, blockToLE, BitVec.extractLsb'_append_eq_ite]
  simp

/-- Byte `j` of the word at bit `a`. -/
theorem extractLsb'_word (x : BitVec 128) {a j : Nat} (hj : j + 8 ≤ 32) :
    (x.extractLsb' a 32).extractLsb' j 8 = x.extractLsb' (a + j) 8 := by
  refine BitVec.eq_of_getLsbD_eq fun i hi => ?_
  simp [hi, show j + i < 32 by omega, Nat.add_assoc]

/-- The words of an integer unpack to its little-endian encoding. -/
theorem unpack_tweakOfLE (x : BitVec 128) : unpack (tweakOfLE x) = blockOfLE x := by
  simp [unpack, unpackWord, tweakOfLE, blockOfLE, intByte, extractLsb'_word]

@[simp] theorem blockToLE_blockOfLE (x : BitVec 128) : blockToLE (blockOfLE x) = x := by
  simp only [blockToLE, blockOfLE, intByte, BitVec.extractLsb'_append_extractLsb'_eq_extractLsb']
  exact BitVec.extractLsb'_eq_self

/-- A word of a doubled integer takes in the top bit of the word below it. -/
theorem extractLsb'_shiftLeft_one (x : BitVec 128) {a : Nat} (ha : a + 64 ≤ 128) :
    (x <<< 1).extractLsb' (a + 32) 32 =
      (x.extractLsb' (a + 32) 32 <<< 1) ||| (if (x.extractLsb' a 32).getLsbD 31 then 1#32 else 0#32) := by
  refine BitVec.eq_of_getLsbD_eq fun i hi => ?_
  cases i with
  | zero =>
    have ha' : a + 32 < 128 := by omega
    cases h : x.getLsbD (a + 31) <;> simp [h, ha', -BitVec.getLsbD_eq_getElem]
  | succ i =>
    have hai : a + 32 + (i + 1) < 128 := by omega
    have hi' : i < 32 := by omega
    cases h : x.getLsbD (a + 31) <;> simp [h, hi, hi', hai, -BitVec.getLsbD_eq_getElem]

/-- The lowest word of a doubled integer takes in no bit. -/
theorem extractLsb'_zero_shiftLeft_one (x : BitVec 128) :
    (x <<< 1).extractLsb' 0 32 = x.extractLsb' 0 32 <<< 1 := by
  refine BitVec.eq_of_getLsbD_eq fun i hi => ?_
  cases i with
  | zero => simp
  | succ i =>
    have hi128 : i + 1 < 128 := by omega
    have hi' : i < 32 := by omega
    simp [hi, hi', hi128, -BitVec.getLsbD_eq_getElem]

/-- The doubling of the four words is that of the integer (R272). -/
theorem dblTweak_tweakOfLE (x : BitVec 128) :
    dblTweak (tweakOfLE x) = tweakOfLE ((x <<< 1) ^^^ (if x.getLsbD 127 then 0x87#128 else 0#128)) := by
  have h0 := extractLsb'_zero_shiftLeft_one x
  have h1 := extractLsb'_shiftLeft_one x (a := 0) (by decide)
  have h2 := extractLsb'_shiftLeft_one x (a := 32) (by decide)
  have h3 := extractLsb'_shiftLeft_one x (a := 64) (by decide)
  have htop : (x.extractLsb' 96 32).getLsbD 31 = x.getLsbD 127 := by simp
  simp only [dblTweak, tweakOfLE, htop, BitVec.extractLsb'_xor, h0, h1, h2, h3]
  cases x.getLsbD 127 <;> simp

/-- Settles O53: all three forms are read off the little-endian integer of the block. -/
theorem tweakDoublingFormsAgree : Obligations.TweakDoublingFormsAgree := by
  refine fun T => ⟨blockToLE_blockOfLE _, ?_, unpack_pack T⟩
  rw [pack_eq_tweakOfLE, dblTweak_tweakOfLE, unpack_tweakOfLE, dblLe]

/-- Zero bytes at the end of a sequence are those a block is filled with anyway. -/
theorem blockOfBytes_append_zeros (l : List Byte) (n : Nat) :
    blockOfBytes (l ++ List.replicate n 0) = blockOfBytes l := by
  have hget : ∀ i, (l ++ List.replicate n 0).getD i (0 : Byte) = l.getD i 0 := by
    intro i
    rcases Nat.lt_or_ge i l.length with hi | hi
    · rw [List.getD_append _ _ _ _ hi]
    · rw [List.getD_append_right _ _ _ _ hi, List.getD_eq_getElem?_getD,
        List.getElem?_getD_replicate_default_eq, List.getD_eq_default _ _ hi]
  simp only [blockOfBytes, hget]

/-- Settles O48: the words stored are those of the cipher's output on the padded identifier. -/
theorem xtsSettweakStoresTheTweak : Obligations.XtsSettweakStoresTheTweak := by
  intro s hk hlen hr id T
  have hrange : operandsInRange .input s = true := by simp [operandsInRange, rangesOk, formatRanges, hr]
  refine ⟨pack T, ?_, rfl, unpack_pack T⟩
  have hT : T = aesEnc (tweakCtx s.xts) s.xts.v (blockOfBytes (readSrc s.len.toNat s)) :=
    congrArg (aesEnc _ _) (blockOfBytes_append_zeros _ _)
  simp only [exec, execXtsSettweak, hk, hlen, hrange, if_true, hT]
  rfl

/-! ### The host port while BUSY = 1 (10_state.md R31; 60_exceptions.md R321; 70_reset_and_hazards.md R339) -/

/-- A host address in the register window is REG_BASE and the offset of the slot it reaches (R24). -/
theorem addr_of_windowOffset {p : Params} {addr : Nat} {o : BitVec 8} (h : windowOffset p addr = some o) :
    addr = p.regBase + o.toNat := by
  unfold windowOffset at h
  split at h
  · next hwin =>
    cases h
    rw [BitVec.toNat_ofNat]
    omega
  · cases h

theorem stuckWhileBusy_readReg {bits : Nat} {o : BitVec 8} (ho : o ≠ 0x14) :
    stuckWhileBusy (.readReg bits o) = true := by
  have hne : o.toNat ≠ 0x14 := fun h => ho (BitVec.eq_of_toNat_eq h)
  simpa [stuckWhileBusy] using hne

/-- An access by a host address is stuck, whether or not the address map places it, unless it reads STATUS. -/
theorem stuckWhileBusy_bus {p : Params} {b : BusAccess} (h : ∀ bits, b ≠ .readReg bits (p.regBase + 0x14)) :
    stuckWhileBusy (portAction p (.bus b)) = true := by
  cases b with
  | readReg bits addr =>
    simp only [portAction]
    cases ho : windowOffset p addr with
    | none => rfl
    | some o =>
      refine stuckWhileBusy_readReg fun hs => h bits ?_
      rw [addr_of_windowOffset ho, hs]
      rfl
  | writeReg bits addr v =>
    simp only [portAction]
    cases windowOffset p addr <;> rfl
  | readMem addr n =>
    simp only [portAction]
    cases dmemAddress p addr <;> rfl
  | writeMem addr bs =>
    simp only [portAction]
    cases dmemAddress p addr <;> rfl

/-- A read of STATUS by its host address is one at the port (R24). -/
theorem portAction_status {p : Params} {bits : Nat} {a : HostAction}
    (h : a = .readReg bits 0x14 ∨ a = .bus (.readReg bits (p.regBase + 0x14))) :
    portAction p a = .readReg bits 0x14 := by
  rcases h with rfl | rfl
  · rfl
  · have hwin := windowOffset_base p 0x14
    simp only [portAction]
    rw [show p.regBase + 0x14 = p.regBase + (0x14 : BitVec 8).toNat from rfl, hwin]
    rfl

section Busy

variable {s : State} {a : HostAction} {rest : List HostAction}

theorem step_stuck (hb : s.busy = true) (ha : s.actions = a :: rest)
    (hs : stuckWhileBusy (portAction s.params a) = true) : step s = fault .hostAccessWhileBusy := by
  rw [step_of_actions ha]
  exact if_pos (by simp [hb, hs])

/-- An action that BUSY does not stop is the access at the port. -/
theorem step_not_stuck (ha : s.actions = a :: rest) (hs : stuckWhileBusy (portAction s.params a) = false) :
    step s = access (portAction s.params a) { s with actions := rest } := by
  rw [step_of_actions ha]
  exact if_neg (by simp [hs])

/-- While BUSY = 1 STATUS is the code with bit 8 set (R31). -/
theorem statusWord_busy (hb : s.busy = true) : statusWord s = 0x100#32 ||| (codeByte s.code).setWidth 32 := by
  rw [statusWord, hb]
  cases s.code <;> decide

end Busy

/-- Settles O8: BUSY stops every host access but a read of STATUS, and the reset is no host access. -/
theorem hostAccessWhileBusyHasNoStep : Obligations.HostAccessWhileBusyHasNoStep := by
  intro s rest a hb ha
  refine ⟨fun hport => step_stuck hb ha ?_, fun hbus => step_stuck hb ha ?_, fun hstatus => ?_,
    fun bits hbits hstatus => ?_, ?_⟩
  · obtain ⟨_, _, _, rfl⟩ | ⟨_, _, rfl⟩ | ⟨_, _, rfl⟩ | ⟨_, _, rfl, ho⟩ := hport
    · rfl
    · rfl
    · rfl
    · exact stuckWhileBusy_readReg ho
  · obtain ⟨_, _, _, rfl⟩ | ⟨_, _, rfl⟩ | ⟨_, _, rfl⟩ | ⟨_, _, rfl, hne⟩ := hbus
    · exact stuckWhileBusy_bus nofun
    · exact stuckWhileBusy_bus nofun
    · exact stuckWhileBusy_bus nofun
    · exact stuckWhileBusy_bus fun bits h => by cases h; exact hne rfl
  · have hp := portAction_status hstatus
    rw [step_not_stuck ha (by rw [hp]; rfl), hp, ← statusWord_busy hb]
    rfl
  · have hp := portAction_status hstatus
    rw [step_not_stuck ha (by rw [hp]; rfl), hp]
    exact if_neg (by simp [accessOk, hbits])
  · rintro contents rfl
    exact ⟨_, step_not_stuck ha rfl⟩

/-! ### The values after reset (10_state.md R48, R49; 70_reset_and_hazards.md R331) -/

theorem statusWord_reset : statusWord State.reset = 0 := by decide

theorem readSlot_reset (o : BitVec 8) : readSlot o State.reset = 0 := by
  unfold readSlot
  split
  case h_6 => exact statusWord_reset
  all_goals rfl

/-- Settles O9: the reset state field by field; the reset action is never stuck and leaves `afterReset`. -/
theorem resetLeavesTheResetValues : Obligations.ResetLeavesTheResetValues :=
  ⟨readSlot_reset, rfl, rfl, ctxOf_reset, rfl, rfl, rfl, fun _ _ _ ha => ⟨_, step_not_stuck ha rfl, rfl⟩⟩

/-! ### CLEAR and the queries (41_aes_variants.md R175 to R177; 42_eax.md R250 to R253; 43_xts.md R280 to R282) -/

theorem exec_clearOf (v : Variant) (s : State) : exec (clearOf v) s = clearCommand v s := by cases v <;> rfl

theorem exec_keysizeOf (v : Variant) (s : State) : exec (keysizeOf v) s = keySizeCommand v s := by cases v <;> rfl

theorem exec_blocksizeOf (v : Variant) (s : State) : exec (blocksizeOf v) s = blockSizeCommand s := by cases v <;> rfl

/-- Settles O33: the three shared commands, and KB(v) for each variant. -/
theorem clearAndQueriesOfEveryVariant : Obligations.ClearAndQueriesOfEveryVariant := by
  intro v s
  rw [exec_clearOf, exec_keysizeOf, exec_blocksizeOf]
  refine ⟨rfl, ?_, rfl⟩
  cases v <;> rfl

/-- ARG.V = 7 selects no variant (R30). -/
theorem argVariant_of_seven {s : State} (h : (argV s).toNat = 7) : argVariant s = none := by
  simpa [h] using argVariant_isNone s

/-- Settles O46: EAX.KEYSIZE by the variant that ARG.V selects; the other three take no operand. -/
theorem eaxClearAndQueries : Obligations.EaxClearAndQueries := by
  refine fun s => ⟨rfl, fun v hv => ?_, fun h7 => ?_, rfl, rfl⟩
  · have hv' : argVariant s = some v := hv
    simp only [exec, execEaxKeysize, hv']
    rfl
  · simp only [exec, execEaxKeysize, argVariant_of_seven h7]
    rfl

/-- Settles O54: XTS.KEYSIZE by the variant that ARG.V selects; the other two take no operand. -/
theorem xtsClearAndQueries : Obligations.XtsClearAndQueries := by
  refine fun s => ⟨rfl, fun v hv => ?_, fun h7 => ?_, rfl⟩
  · have hv' : argVariant s = some v := hv
    simp only [exec, execXtsKeysize, hv']
    rfl
  · simp only [exec, execXtsKeysize, argVariant_of_seven h7]
    rfl

end Sys2Proof.Machine

namespace Sys2Proof.Machine

open Host.Outcome

/-! ### Register accesses without a meaning (20_memory.md R67) -/

theorem accessOk_of_not_word {bits : Nat} {o : BitVec 8} (h : bits ≠ 32 ∨ o.toNat % 4 ≠ 0) :
    accessOk bits o = false := by
  rcases h with h | h <;> simp [accessOk, h]

/-- Settles O6: while BUSY = 0 the step is the access at the port, which fails its width and offset check. -/
theorem otherRegisterAccessIsRefused : Obligations.OtherRegisterAccessIsRefused := by
  intro s rest bits o v hb hbad
  have hrefused : ¬accessOk bits o = true := by simp [accessOk_of_not_word hbad]
  exact ⟨fun ha => (step_idle hb ha).trans (if_neg hrefused), fun ha => (step_idle hb ha).trans (if_neg hrefused)⟩

/-! ### A write and the bytes still to be read (20_memory.md R68, R69) -/

/-- `MemRead` depends on the bytes of its range alone (R13). -/
theorem memRead_congr {m m' : Memory} : ∀ {a n : Nat}, (∀ c, a ≤ c → c < a + n → m.read c = m'.read c) →
    memRead m a n = memRead m' a n
  | _, 0, _ => rfl
  | a, n + 1, h => by
    rw [memRead, memRead, h a le_rfl (by omega), memRead_congr fun c hlo hhi => h c (by omega) (by omega)]

/-- When the two ranges are the same or disjoint, a write at offset `i` of the output range leaves the bytes of the
input range at later offsets as they were (R69). -/
theorem memRead_later_of_sameOrDisjoint {src dst size i j n : Nat} {bs : List Byte} (m : Memory)
    (h : sameOrDisjoint src dst size = true) (hi : i + bs.length ≤ j) (hj : j + n ≤ size) :
    memRead (memWrite m (dst + i) bs) (src + j) n = memRead m (src + j) n := by
  have hranges : src = dst ∨ src + size ≤ dst ∨ dst + size ≤ src := by
    simpa [sameOrDisjoint, or_assoc] using h
  exact memRead_congr fun c hlo hhi => memWrite_read_outside m (dst + i) bs c (by omega)

/-! ### The byte loop of EAX.ENC and EAX.DEC (42_eax.md R243 to R245) -/

/-- The bytes from offset `i` on write nothing below it. -/
theorem streamBytes_read_before (d : Bool) : ∀ (n i : Nat) (s : State) {a : Nat}, a < s.dst.toNat + i →
    (streamBytes d n i s).dmem.read a = s.dmem.read a
  | 0, _, _, _, _ => rfl
  | n + 1, i, s, a, ha => by
    have hlater := streamBytes_read_before d n (i + 1) (streamByte d i s) (a := a) (by rw [streamByte_dst]; omega)
    exact hlater.trans (Memory.read_write_ne _ _ _ _ (by omega))

/-- On equal or disjoint ranges the byte loop writes the stream function of the input bytes, and leaves its context: a
turn overwrites no input byte of a later one (R69, R244, R245). -/
theorem streamBytes_eq_streamRef (d : Bool) {size : Nat} : ∀ (n i : Nat) (s : State), s.dmem.wf = true →
    sameOrDisjoint s.src.toNat s.dst.toNat size = true → i + n ≤ size →
    memRead (streamBytes d n i s).dmem (s.dst.toNat + i) n =
        (streamRef d s.eax (memRead s.dmem (s.src.toNat + i) n)).1 ∧
      (streamBytes d n i s).eax = (streamRef d s.eax (memRead s.dmem (s.src.toNat + i) n)).2
  | 0, _, _, _, _, _ => ⟨rfl, rfl⟩
  | n + 1, i, s, hwf, hsafe, hi => by
    obtain ⟨hout, heax⟩ := streamBytes_eq_streamRef d n (i + 1) (streamByte d i s) (Memory.wf_write _ _ _ hwf) hsafe
      (by omega)
    have hinput : memRead (streamByte d i s).dmem (s.src.toNat + (i + 1)) n =
        memRead s.dmem (s.src.toNat + (i + 1)) n :=
      memRead_later_of_sameOrDisjoint (bs := [_]) s.dmem hsafe le_rfl (by omega)
    have hbyte : (streamBytes d n (i + 1) (streamByte d i s)).dmem.read (s.dst.toNat + i) =
        s.dmem.read (s.src.toNat + i) ^^^ (ksNext s.eax).1 := by
      rw [streamBytes_read_before d n (i + 1) _ (by rw [streamByte_dst]; omega), streamByte,
        Memory.read_write _ _ _ _ hwf, if_pos rfl]
    rw [streamByte_src, hinput] at hout heax
    rw [streamByte_dst] at hout
    simp only [streamBytes, memRead, streamRef, hbyte]
    exact ⟨congrArg _ hout, heax⟩

section Stream

variable {s : State} (hp : s.eax.ph = .auth ∨ s.eax.ph = .cipher)
  (hsrc : inRange s.params s.src.toNat s.len.toNat = true) (hdst : inRange s.params s.dst.toNat s.len.toNat = true)

include hp hsrc hdst

/-- In AUTH or CIPHER with both ranges in DMEM, EAX.ENC and EAX.DEC run the byte loop (R244, R245). -/
theorem streamCommand_completes (d : Bool) :
    streamCommand d s = next (complete (streamBytes d s.len.toNat 0 { s with eax := closeAuth s.eax })) := by
  have hr : operandsInRange .stream s = true := (rangesOk_pair _ _ _ _ _).2 ⟨hsrc, hdst⟩
  rcases hp with hp | hp <;> simp [streamCommand, hp, hr]

/-- EAX.ENC and EAX.DEC on equal or disjoint ranges (R69, R244, R245). -/
theorem streamCommand_eq_streamRef (d : Bool) (hwf : s.dmem.wf = true)
    (hsafe : sameOrDisjoint s.src.toNat s.dst.toNat s.len.toNat = true) :
    ∃ t, streamCommand d s = next t ∧ t.code = .ok ∧
      memRead t.dmem s.dst.toNat s.len.toNat =
        (streamRef d (closeAuth s.eax) (memRead s.dmem s.src.toNat s.len.toNat)).1 ∧
      t.eax = (streamRef d (closeAuth s.eax) (memRead s.dmem s.src.toNat s.len.toNat)).2 :=
  ⟨_, streamCommand_completes hp hsrc hdst d, rfl,
    streamBytes_eq_streamRef d s.len.toNat 0 { s with eax := closeAuth s.eax } hwf hsafe (by omega)⟩

end Stream

/-- Settles O39: the command completes with the byte loop, whose turn is `streamByte`. -/
theorem eaxStreamCommandsComplete : Obligations.EaxStreamCommandsComplete := fun _ hp hsrc hdst =>
  ⟨streamCommand_completes hp hsrc hdst false, streamCommand_completes hp hsrc hdst true, fun _ _ _ _ => rfl⟩

/-- Settles O40: the byte loop from offset 0, in both directions. -/
theorem eaxStreamIsAFunctionOfTheInput : Obligations.EaxStreamIsAFunctionOfTheInput :=
  fun _ hwf hp hsrc hdst hsafe =>
    ⟨streamCommand_eq_streamRef hp hsrc hdst false hwf hsafe, streamCommand_eq_streamRef hp hsrc hdst true hwf hsafe⟩

/-! ### The block loop of XTS.ENCSECT and XTS.DECSECT (43_xts.md R272, R273, R278, R279) -/

theorem sectorBlock_dmem (f : Block → Block → Block) (k : Nat) (T : Block) (s : State) :
    (sectorBlock f k T s).dmem = memWrite s.dmem (s.dst.toNat + 16 * k)
      (blockBytes (f T (blockOfBytes (memRead s.dmem (s.src.toNat + 16 * k) 16)))) := by
  simp only [sectorBlock]

theorem sectorBlock_wf (f : Block → Block → Block) (k : Nat) (T : Block) {s : State} (h : s.dmem.wf = true) :
    (sectorBlock f k T s).dmem.wf = true := by
  rw [sectorBlock_dmem]
  exact memWrite_wf _ _ _ h

/-- A block just written reads back (R62). -/
theorem memRead_memWrite_block {m : Memory} (h : m.wf = true) (a : Nat) (B : Block) :
    memRead (memWrite m a (blockBytes B)) a 16 = blockBytes B := by
  have hread := memRead_memWrite a (blockBytes B) h
  rwa [blockBytes_length] at hread

/-- A turn of the block loop leaves its block at DST (R278, R279). -/
theorem memRead_sectorBlock (f : Block → Block → Block) (k : Nat) (T : Block) {s : State} (h : s.dmem.wf = true) :
    memRead (sectorBlock f k T s).dmem (s.dst.toNat + 16 * k) 16 =
      blockBytes (f T (blockOfBytes (memRead s.dmem (s.src.toNat + 16 * k) 16))) := by
  rw [sectorBlock_dmem, memRead_memWrite_block h]

/-- The blocks from the one at offset `16 * k` on write nothing below it. -/
theorem sectorBlocks_read_before (f : Block → Block → Block) : ∀ (n k : Nat) (T : Block) (s : State) {a : Nat},
    a < s.dst.toNat + 16 * k → (sectorBlocks f n k T s).dmem.read a = s.dmem.read a
  | 0, _, _, _, _, _ => rfl
  | n + 1, k, T, s, a, ha => by
    rw [sectorBlocks_succ,
      sectorBlocks_read_before f n (k + 1) (dblLe T) (sectorBlock f k T s) (by rw [sectorBlock_dst]; omega),
      sectorBlock_dmem, memWrite_read_outside _ _ _ _ (.inl ha)]

/-- On equal or disjoint ranges block `k + j` of the block loop from `k` on is the input block under the tweak doubled
`j` times: a turn overwrites no input block of a later one (R69, R278, R279). -/
theorem memRead_sectorBlocks (f : Block → Block → Block) {size : Nat} (n k j : Nat) (T : Block) (s : State)
    (hwf : s.dmem.wf = true) (hsafe : sameOrDisjoint s.src.toNat s.dst.toNat size = true)
    (hsize : 16 * (k + n) ≤ size) (hj : j < n) :
    memRead (sectorBlocks f n k T s).dmem (s.dst.toNat + 16 * (k + j)) 16 =
      blockBytes (f (dblLe^[j] T) (blockOfBytes (memRead s.dmem (s.src.toNat + 16 * (k + j)) 16))) := by
  induction n generalizing k j T s with
  | zero => omega
  | succ n ih =>
    rw [sectorBlocks_succ]
    cases j with
    | zero =>
      have hkept : memRead (sectorBlocks f n (k + 1) (dblLe T) (sectorBlock f k T s)).dmem (s.dst.toNat + 16 * k) 16 =
          memRead (sectorBlock f k T s).dmem (s.dst.toNat + 16 * k) 16 :=
        memRead_congr fun c _ hc => sectorBlocks_read_before f n (k + 1) _ _ (by rw [sectorBlock_dst]; omega)
      exact hkept.trans (memRead_sectorBlock f k T hwf)
    | succ j =>
      have hout := ih (k + 1) j (dblLe T) (sectorBlock f k T s) (sectorBlock_wf f k T hwf)
        (by rwa [sectorBlock_src, sectorBlock_dst]) (by omega) (by omega)
      have hinput : memRead (sectorBlock f k T s).dmem (s.src.toNat + 16 * (k + 1 + j)) 16 =
          memRead s.dmem (s.src.toNat + 16 * (k + 1 + j)) 16 := by
        rw [sectorBlock_dmem]
        exact memRead_later_of_sameOrDisjoint s.dmem hsafe (by rw [blockBytes_length]; omega) (by omega)
      rw [sectorBlock_src, sectorBlock_dst, hinput] at hout
      rw [Function.iterate_succ_apply, show k + (j + 1) = k + 1 + j by omega]
      exact hout

section Sector

variable {s : State} (hk : s.xts.keyed = true) (ht : s.xts.tweaked = true)
  (hsrc : inRange s.params s.src.toNat s.xts.sect.toNat = true)
  (hdst : inRange s.params s.dst.toNat s.xts.sect.toNat = true)

include hk ht hsrc hdst

/-- With a key, a tweak and both ranges in DMEM, XTS.ENCSECT and XTS.DECSECT run the block loop, which writes DMEM alone
(R278, R279). -/
theorem sectorCommand_completes (f : Xts → Block → Block → Block) :
    sectorCommand f s = next { s with
      dmem := (sectorBlocks (f s.xts) (s.xts.sect.toNat / 16) 0 (unpack s.xts.tw) s).dmem
      code := .ok, busy := false } := by
  have hr : operandsInRange .sector s = true := (rangesOk_pair _ _ _ _ _).2 ⟨hsrc, hdst⟩
  simp only [sectorCommand, hk, ht, hr, if_true]
  rw [sectorBlocks_frame, complete]

/-- XTS.ENCSECT and XTS.DECSECT on equal or disjoint ranges, block by block (R69, R278, R279). -/
theorem sectorCommand_block (f : Xts → Block → Block → Block) {k : Nat} (hwf : s.dmem.wf = true)
    (hsafe : sameOrDisjoint s.src.toNat s.dst.toNat s.xts.sect.toNat = true)
    (hsect : 16 * (k + 1) ≤ s.xts.sect.toNat) :
    ∃ t, sectorCommand f s = next t ∧ memRead t.dmem (s.dst.toNat + 16 * k) 16 =
      blockBytes (f s.xts (dblLe^[k] (unpack s.xts.tw)) (blockOfBytes (memRead s.dmem (s.src.toNat + 16 * k) 16))) := by
  have hblock := memRead_sectorBlocks (f s.xts) (s.xts.sect.toNat / 16) 0 k (unpack s.xts.tw) s hwf hsafe
    (by omega) (by omega)
  rw [Nat.zero_add] at hblock
  exact ⟨_, sectorCommand_completes hk ht hsrc hdst f, hblock⟩

end Sector

/-- Settles O50: the command completes with the block loop, whose turn is `sectorBlock`. -/
theorem xtsSectorCommandsComplete : Obligations.XtsSectorCommandsComplete := fun _ hk ht hsrc hdst =>
  ⟨sectorCommand_completes hk ht hsrc hdst xtsEnc, sectorCommand_completes hk ht hsrc hdst xtsDec,
    sectorBlocks_succ⟩

/-- Settles O51: the block loop from block 0, with `XtsEnc` and `XtsDec` as R273 gives them. -/
theorem xtsSectorBlocksUseTheDoubledTweak : Obligations.XtsSectorBlocksUseTheDoubledTweak :=
  fun _ _ hwf hk ht hsrc hdst hsafe hsect =>
    ⟨sectorCommand_block hk ht hsrc hdst xtsEnc hwf hsafe hsect,
      sectorCommand_block hk ht hsrc hdst xtsDec hwf hsafe hsect⟩

end Sys2Proof.Machine

namespace Sys2Proof.Machine

open Host.Outcome

/-! ### The command word (30_encoding.md R86, R87, R90 to R92) -/

theorem rsvd_toNat (w : Word) : (rsvd w).toNat = w.toNat / 256 := by
  have hw := w.isLt
  rw [rsvd, BitVec.extractLsb'_toNat, Nat.shiftRight_eq_div_pow]
  exact Nat.mod_eq_of_lt (by omega)

theorem opc_toNat (w : Word) : (opc w).toNat = w.toNat % 256 := by
  rw [opc, BitVec.extractLsb'_toNat, Nat.shiftRight_zero]

/-- A word decodes to the command its opcode selects, if RSVD is zero (R87). -/
theorem decode_eq_ok_iff {w : Word} {i : Instr} :
    decode w = .ok i ↔ w.toNat / 256 = 0 ∧ instrOfOpcode (w.toNat % 256) = some i := by
  rw [← rsvd_toNat, ← opc_toNat, ← BitVec.toNat_zero (w := 24), BitVec.toNat_inj, decode]
  by_cases hr : rsvd w = 0#24
  · cases instrOfOpcode (opc w).toNat <;> simp [hr]
  · simp [hr]

/-- The opcode map and the opcodes of the commands list the same pairs (R90, R91): each row of the map is a command with
its own opcode. -/
theorem opcode_of_mem_opcodeMap : ∀ row ∈ opcodeMap, opcode row.2 = row.1 := by decide

/-- The opcode of each command selects it: no earlier row of the map has that opcode (R90, R91). -/
theorem instrOfOpcode_opcode (i : Instr) : instrOfOpcode (opcode i) = some i := by cases i <;> rfl

theorem instrOfOpcode_eq_some_iff {o : Nat} {i : Instr} : instrOfOpcode o = some i ↔ opcode i = o := by
  constructor
  · intro h
    obtain ⟨row, hrow, rfl⟩ := Option.map_eq_some_iff.1 h
    have hfound := List.find?_some hrow
    exact (opcode_of_mem_opcodeMap row (List.mem_of_find?_eq_some hrow)).trans (eq_of_beq hfound)
  · rintro rfl
    exact instrOfOpcode_opcode i

theorem opcode_lt (i : Instr) : opcode i < 256 := by cases i <;> decide

theorem encode_toNat (i : Instr) : (encode i).toNat = opcode i := by
  have ho := opcode_lt i
  exact (BitVec.toNat_ofNat _ _).trans (Nat.mod_eq_of_lt (by omega))

/-- A word decodes to a command exactly when it is the command's own word. -/
theorem decode_eq_ok_iff_eq_encode {w : Word} {i : Instr} : decode w = .ok i ↔ w = encode i := by
  have ho := opcode_lt i
  rw [decode_eq_ok_iff, instrOfOpcode_eq_some_iff, ← BitVec.toNat_inj, encode_toNat]
  omega

/-- Settles O1, by `decode_eq_ok_iff_eq_encode`. -/
theorem decodeInvertsEncode : Obligations.DecodeInvertsEncode :=
  fun _ => ⟨decode_eq_ok_iff_eq_encode.2 rfl, fun _ => decode_eq_ok_iff_eq_encode.1⟩

/-- Settles O3, by decoding each word. -/
theorem sampleWordsDecode : Obligations.SampleWordsDecode := by
  unfold Obligations.SampleWordsDecode
  decide

/-- Of the 256 opcodes, R92 reserves those that R90 and R91 do not assign. -/
theorem opcodeReserved_eq_isNone : ∀ o < 256, opcodeReserved o = (instrOfOpcode o).isNone := by
  decide +kernel

/-- The words that R92 does not reserve are those that decode (R87). -/
theorem wordWellFormed_iff {w : Word} : wordWellFormed w = true ↔ ∃ i, decode w = .ok i := by
  have hreserved := opcodeReserved_eq_isNone (w.toNat % 256) (Nat.mod_lt _ (by omega))
  simp only [wordWellFormed, hreserved, decode_eq_ok_iff, exists_and_left, ← Option.isSome_iff_exists,
    Bool.and_eq_true, beq_iff_eq, Option.not_isNone]

/-- A write to CMD of a word that decodes to no command raises ERR_OPC (R87). -/
theorem issue_of_not_decode {c : Word} (h : ¬∃ i, decode c = .ok i) (s : State) :
    issue c s = next (raise .errOpc { s with cmd := c, busy := true }) := by
  obtain ⟨i, hi, _⟩ | ⟨_, _, hissue⟩ := issue_cases c s
  · exact absurd ⟨i, hi⟩ h
  · exact hissue

/-- Settles O2: a reserved word does not decode, and a write at offset 0x00 issues it. -/
theorem reservedWordRaisesErrOpc : Obligations.ReservedWordRaisesErrOpc := by
  have hreserved : ∀ w : Word, wordWellFormed w = false ↔ ¬∃ i, decode w = .ok i := fun w => by
    rw [← wordWellFormed_iff, Bool.not_eq_true]
  refine ⟨hreserved, fun s w rest hb ha hw => ?_⟩
  calc step s
      = issue w { s with actions := rest } := step_writeReg hb ha rfl
    _ = next (raise .errOpc { s with actions := rest, cmd := w, busy := true }) :=
        issue_of_not_decode ((hreserved w).1 hw) _
    _ = next { s with actions := rest, cmd := w, code := .errOpc } := by rw [raise, hb]

/-! ### EAX.TAG (42_eax.md R246, R247) -/

/-- The one range that EAX.TAG checks (R66, R88). -/
theorem operandsInRange_output (s : State) :
    operandsInRange .output s = inRange s.params s.dst.toNat (min s.len.toNat 16) :=
  Bool.and_true _

/-- Once a nonce is set, `Finalize()` ends in DONE (R246). -/
theorem finalize_ph {e : Eax} (hkey : e.ph ≠ .noKey) (hiv : e.ph ≠ .noIv) : (finalize e).ph = .done := by
  by_cases hopen : e.ph = .auth ∨ e.ph = .cipher
  · rw [finalize_of_open hopen]
  · rw [finalize_of_not_open hopen]
    cases hph : e.ph <;> simp_all

/-- In DONE the engine keeps its tag (R246). -/
theorem finalize_of_done {e : Eax} (h : e.ph = .done) : finalize e = e := finalize_of_not_open (by simp [h])

/-- Settles O44: with both phases that raise excluded and the range in DMEM, EAX.TAG completes. -/
theorem eaxTagWritesTheTag : Obligations.EaxTagWritesTheTag := by
  intro s hkey hiv hdst
  refine ⟨?_, finalize_ph hkey hiv, finalize_of_done⟩
  have hrange : operandsInRange .output s = true := (operandsInRange_output s).trans hdst
  simp only [exec, execEaxTag, if_neg hkey, if_neg hiv, if_pos hrange]
  rfl

end Sys2Proof.Machine

namespace Sys2Proof.Machine

/-! ### Multiplication in GF(2^8) (40_aes_primitives.md R107 to R110) -/

theorem byte_xor_xor_xor_comm (a b c d : Byte) : a ^^^ b ^^^ (c ^^^ d) = a ^^^ c ^^^ (b ^^^ d) := by
  ac_rfl

theorem xtime_xor (a b : Byte) : xtime (a ^^^ b) = xtime a ^^^ xtime b := by
  rw [xtime, xtime, xtime, byte_xor_xor_xor_comm, BitVec.shiftLeft_xor_distrib, BitVec.getLsbD_xor]
  congr 1
  cases a.getLsbD 7 <;> cases b.getLsbD 7 <;> rfl

theorem gmulLoop_xor_right (n k : Nat) (a b c p q : Byte) :
    gmulLoop n k a (b ^^^ c) (p ^^^ q) = gmulLoop n k a b p ^^^ gmulLoop n k a c q := by
  induction n generalizing k a p q with
  | zero => rfl
  | succ n ih =>
    simp only [gmulLoop, ← ih, BitVec.getLsbD_xor]
    congr 1
    cases b.getLsbD k <;> cases c.getLsbD k
    · rfl
    · exact BitVec.xor_assoc p q a
    · exact show p ^^^ q ^^^ a = p ^^^ a ^^^ q by ac_rfl
    · exact show p ^^^ q = p ^^^ a ^^^ (q ^^^ a) by rw [byte_xor_xor_xor_comm, BitVec.xor_self, BitVec.xor_zero]

theorem gmulLoop_xor_left (n k : Nat) (a b c p q : Byte) :
    gmulLoop n k (a ^^^ b) c (p ^^^ q) = gmulLoop n k a c p ^^^ gmulLoop n k b c q := by
  induction n generalizing k a b p q with
  | zero => rfl
  | succ n ih =>
    simp only [gmulLoop, ← ih, xtime_xor]
    congr 1
    cases c.getLsbD k
    · rfl
    · exact byte_xor_xor_xor_comm p q a b

theorem gmulLoop_xtime_left (n k : Nat) (a b p : Byte) :
    gmulLoop n k (xtime a) b (xtime p) = xtime (gmulLoop n k a b p) := by
  induction n generalizing k a p with
  | zero => rfl
  | succ n ih =>
    rw [gmulLoop, gmulLoop, ← ih, apply_ite xtime, xtime_xor]

theorem gmul_one_left (a : Byte) : gmul 0x01 a = a := by
  revert a
  decide +kernel

/-- What sums and multiplication with x keep, the loop of R110 keeps. -/
theorem gmulLoop_closed {P : Byte → Prop} (xor : ∀ a b, P a → P b → P (a ^^^ b)) (mulX : ∀ a, P a → P (xtime a))
    (n k : Nat) {a b p : Byte} (ha : P a) (hp : P p) : P (gmulLoop n k a b p) := by
  induction n generalizing k a p with
  | zero => exact hp
  | succ n ih =>
    rw [gmulLoop]
    split
    · exact ih _ (mulX a ha) (xor p a hp ha)
    · exact ih _ (mulX a ha) hp

/-- Every byte is a polynomial in x: what holds of 0 and 1, and is kept by sums and by multiplication with x, holds of
every byte (R107). -/
theorem byte_induction {P : Byte → Prop} (zero : P 0) (one : P 1) (xor : ∀ a b, P a → P b → P (a ^^^ b))
    (mulX : ∀ a, P a → P (xtime a)) (a : Byte) : P a :=
  gmul_one_left a ▸ gmulLoop_closed xor mulX 8 0 one zero

theorem gmul_xor (a b c : Byte) : gmul a (b ^^^ c) = gmul a b ^^^ gmul a c := gmulLoop_xor_right 8 0 a b c 0 0

theorem xor_gmul (a b c : Byte) : gmul (a ^^^ b) c = gmul a c ^^^ gmul b c := gmulLoop_xor_left 8 0 a b c 0 0

theorem gmul_xtime_left (a b : Byte) : gmul (xtime a) b = xtime (gmul a b) := gmulLoop_xtime_left 8 0 a b 0

theorem gmul_zero (a : Byte) : gmul a 0x00 = 0x00 := by simp [gmul, gmulLoop]

theorem gmul_one (a : Byte) : gmul a 0x01 = a := by simp [gmul, gmulLoop]

theorem zero_gmul (a : Byte) : gmul 0x00 a = 0x00 := by simpa using xor_gmul 0 0 a

/-- Multiplication with x on the right, by induction on the left factor. -/
theorem gmul_xtime_right (a b : Byte) : gmul a (xtime b) = xtime (gmul a b) := by
  induction a using byte_induction with
  | zero => simp only [zero_gmul]; rfl
  | one => rw [gmul_one_left, gmul_one_left]
  | xor a a' ha ha' => rw [xor_gmul, xor_gmul, ha, ha', xtime_xor]
  | mulX a ha => rw [gmul_xtime_left, ha, gmul_xtime_left]

theorem gmul_comm (a b : Byte) : gmul a b = gmul b a := by
  induction a using byte_induction with
  | zero => rw [zero_gmul, gmul_zero]
  | one => rw [gmul_one_left, gmul_one]
  | xor a a' ha ha' => rw [xor_gmul, gmul_xor, ha, ha']
  | mulX a ha => rw [gmul_xtime_left, gmul_xtime_right, ha]

theorem gmul_assoc (a b c : Byte) : gmul (gmul a b) c = gmul a (gmul b c) := by
  induction a using byte_induction with
  | zero => simp only [zero_gmul]
  | one => simp only [gmul_one_left]
  | xor a a' ha ha' => simp only [xor_gmul, ha, ha']
  | mulX a ha => simp only [gmul_xtime_left, ha]

/-! ### The inverse and the S-box (40_aes_primitives.md R111 to R113) -/

theorem gpow_two_mul (a : Byte) (n : Nat) : gpow a (2 * n) = gpow (gmul a a) n := by
  induction n with
  | zero => rfl
  | succ n ih => rw [Nat.mul_succ, gpow, gpow, ih, gpow, gmul_assoc]

theorem gpow_gmul (a b : Byte) (n : Nat) : gpow (gmul a b) n = gmul (gpow a n) (gpow b n) := by
  induction n with
  | zero => exact (gmul_one 0x01).symm
  | succ n ih =>
    calc gmul (gpow (gmul a b) n) (gmul a b)
        = gmul (gpow a n) (gmul (gmul (gpow b n) a) b) := by rw [ih, gmul_assoc, gmul_assoc]
      _ = gmul (gpow a n) (gmul a (gmul (gpow b n) b)) := by rw [gmul_comm _ a, gmul_assoc]
      _ = gmul (gpow a (n + 1)) (gpow b (n + 1)) := (gmul_assoc _ _ _).symm

/-- Squaring is additive, as the two mixed products cancel. -/
theorem xor_sq (a b : Byte) : gmul (a ^^^ b) (a ^^^ b) = gmul a a ^^^ gmul b b := by
  rw [gmul_xor, xor_gmul, xor_gmul, gmul_comm b a]
  simp [BitVec.xor_assoc]

theorem gpow_two_pow_xor (k : Nat) (a b : Byte) : gpow (a ^^^ b) (2 ^ k) = gpow a (2 ^ k) ^^^ gpow b (2 ^ k) := by
  induction k generalizing a b with
  | zero => exact gmul_xor 0x01 a b
  | succ k ih => rw [Nat.pow_succ', gpow_two_mul, gpow_two_mul, gpow_two_mul, xor_sq, ih]

/-- Every byte is a root of `X^256 = X`, because 0, 1 and x are and the roots are closed under sum and product. -/
theorem gpow_256 (a : Byte) : gpow a 256 = a := by
  induction a using byte_induction with
  | zero => decide +kernel
  | one => decide +kernel
  | xor a b ha hb =>
    have h := gpow_two_pow_xor 8 a b
    rwa [show 2 ^ 8 = 256 from rfl, ha, hb] at h
  | mulX a ha =>
    have hx : xtime a = gmul 0x02 a := by
      rw [show (0x02 : Byte) = xtime 0x01 from rfl, gmul_xtime_left, gmul_one_left]
    have hroot : gpow 0x02 256 = 0x02 := by decide +kernel
    rw [hx, gpow_gmul, hroot, ha]

/-- Any inverse of `a` is `a^254 = a^256 • b • b` (R111). -/
theorem eq_ginv_of_gmul_eq_one {a b : Byte} (h : gmul a b = 0x01) : b = ginv a := by
  have hstep : ∀ n, gmul (gpow a (n + 1)) b = gpow a n := fun n => by rw [gpow, gmul_assoc, h, gmul_one]
  calc b = gmul (gmul a b) b := by rw [h, gmul_one_left]
    _ = gmul (gmul (gpow a 256) b) b := by rw [gpow_256]
    _ = ginv a := by rw [hstep, hstep, ginv]

/-- The affine map that undoes `A` (R112). -/
def affineInv (b : Byte) : Byte := b.rotateLeft 1 ^^^ b.rotateLeft 3 ^^^ b.rotateLeft 6 ^^^ 0x05#8

theorem affine_affineInv (b : Byte) : affine (affineInv b) = b := by
  revert b
  decide +kernel

/-- The S-box table holds, before the affine map, an inverse of each nonzero byte (R112). -/
theorem gmul_affineInv_sbox : ∀ a : Byte, a ≠ 0x00 → gmul a (affineInv (sbox a)) = 0x01 := by
  decide +kernel

theorem ginv_zero : ginv 0x00 = 0x00 := gmul_zero _

theorem affineInv_sbox (a : Byte) : affineInv (sbox a) = ginv a := by
  by_cases ha : a = 0x00
  · subst ha; decide +kernel
  · exact eq_ginv_of_gmul_eq_one (gmul_affineInv_sbox a ha)

theorem sbox_eq_affine_ginv (a : Byte) : sbox a = affine (ginv a) := by
  rw [← affineInv_sbox, affine_affineInv]

theorem gmul_eq_one_iff {a b : Byte} (ha : a ≠ 0x00) : gmul a b = 0x01 ↔ b = ginv a := by
  refine ⟨eq_ginv_of_gmul_eq_one, ?_⟩
  rintro rfl
  rw [← affineInv_sbox]
  exact gmul_affineInv_sbox a ha

theorem sboxInv_sbox (a : Byte) : sboxInv (sbox a) = a := by
  revert a
  decide +kernel

theorem sbox_sboxInv (a : Byte) : sbox (sboxInv a) = a :=
  have hleft : Function.LeftInverse sboxInv sbox := sboxInv_sbox
  hleft.rightInverse_of_surjective (Finite.surjective_of_injective hleft.injective) a

/-- Settles O24: the laws of the product, and the S-box as the affine map of the inverse. -/
theorem fieldAndTablesMeetTheirDefinitions : Obligations.FieldAndTablesMeetTheirDefinitions :=
  ⟨gmul_comm, gmul_assoc, gmul_xor, gmul_one, gmul_zero, by decide, by decide, fun _ _ => gmul_eq_one_iff, ginv_zero,
    fun a => ⟨sbox_eq_affine_ginv a, sboxInv_sbox a, sbox_sboxInv a⟩⟩

/-! ### Laws of the round transformations (40_aes_primitives.md R115 to R122, R132) -/

theorem mapQuad_leftInverse {f g : Byte → Byte} (h : Function.LeftInverse g f) :
    Function.LeftInverse (mapQuad g) (mapQuad f) := fun w => by
  simp only [mapQuad, h _]

theorem mapColumns_leftInverse {f g : Quad → Quad} (h : Function.LeftInverse g f) :
    Function.LeftInverse (mapColumns g) (mapColumns f) := fun B => by
  simp only [mapColumns, h _]

theorem invSubBytes_subBytes (B : Block) : invSubBytes (subBytes B) = B :=
  mapColumns_leftInverse (mapQuad_leftInverse sboxInv_sbox) B

theorem invShiftRows_shiftRows (B : Block) : invShiftRows (shiftRows B) = B := rfl

theorem shiftRows_invShiftRows (B : Block) : shiftRows (invShiftRows B) = B := rfl

/-- ISRSB undoes SBSR (R132). -/
theorem invSubBytes_invShiftRows_shiftRows_subBytes (B : Block) :
    invSubBytes (invShiftRows (shiftRows (subBytes B))) = B := by
  rw [invShiftRows_shiftRows, invSubBytes_subBytes]

theorem circulant_xorQuad (m0 m1 m2 m3 : Byte) (a b : Quad) :
    circulant m0 m1 m2 m3 (xorQuad a b) = xorQuad (circulant m0 m1 m2 m3 a) (circulant m0 m1 m2 m3 b) := by
  simp only [circulant, xorQuad, gmul_xor]
  congr 1 <;> ac_rfl

theorem mixColumns_xorBlock (A B : Block) : mixColumns (xorBlock A B) = xorBlock (mixColumns A) (mixColumns B) := by
  simp only [mixColumns, mapColumns, xorBlock, circulant_xorQuad]

/-- The product of two circulant matrices is circulant. -/
theorem circulant_circulant (m0 m1 m2 m3 n0 n1 n2 n3 : Byte) (a : Quad) :
    circulant m0 m1 m2 m3 (circulant n0 n1 n2 n3 a) =
      circulant (gmul m0 n0 ^^^ gmul m1 n3 ^^^ gmul m2 n2 ^^^ gmul m3 n1)
        (gmul m0 n1 ^^^ gmul m1 n0 ^^^ gmul m2 n3 ^^^ gmul m3 n2)
        (gmul m0 n2 ^^^ gmul m1 n1 ^^^ gmul m2 n0 ^^^ gmul m3 n3)
        (gmul m0 n3 ^^^ gmul m1 n2 ^^^ gmul m2 n1 ^^^ gmul m3 n0) a := by
  simp only [circulant, gmul_xor, xor_gmul, gmul_assoc]
  congr 1 <;> ac_rfl

theorem circulant_one (a : Quad) : circulant 0x01 0x00 0x00 0x00 a = a := by
  simp only [circulant, gmul_one_left, zero_gmul]
  simp

/-- The matrices of R119 and R120 are inverse: the first row of their product is 01 00 00 00. -/
theorem invMixColumns_mixColumns (B : Block) : invMixColumns (mixColumns B) = B := by
  refine mapColumns_leftInverse (fun a => ?_) B
  rw [circulant_circulant]
  exact circulant_one a

/-- S has no fixed point and no complemented one (R132). -/
theorem sbox_ne (a : Byte) : sbox a ≠ a ∧ sbox a ≠ a ^^^ 0xFF := by
  revert a
  decide +kernel

theorem subWord_rotWord (w : Quad) : subWord (rotWord w) = rotWord (subWord w) := rfl

/-- Settles O25, law by law. -/
theorem roundTransformationLaws : Obligations.RoundTransformationLaws :=
  ⟨invShiftRows_shiftRows, invSubBytes_subBytes, invSubBytes_invShiftRows_shiftRows_subBytes, invMixColumns_mixColumns,
    mixColumns_xorBlock, sbox_ne, subWord_rotWord⟩

end Sys2Proof.Machine

namespace Sys2Proof.Machine

open Host.Outcome

/-! ### The bytes, rows and columns of a block (40_aes_primitives.md R106) -/

/-- Byte `r` of a word (R11). -/
def quadByte (w : Quad) (r : Nat) : Byte := (quadBytes w).getD r 0

/-- Column `c` of a block (R106). -/
def blockColumn (B : Block) (c : Nat) : Quad := wordAt [B.c0, B.c1, B.c2, B.c3] c

theorem blockByte_eq_quadByte (B : Block) {r c : Nat} (hr : r < 4) (hc : c < 4) :
    blockByte B (r + 4 * c) = quadByte (blockColumn B c) r := by
  interval_cases c <;> interval_cases r <;> rfl

theorem blockColumn_mapColumns (f : Quad → Quad) (B : Block) {c : Nat} (hc : c < 4) :
    blockColumn (mapColumns f B) c = f (blockColumn B c) := by
  interval_cases c <;> rfl

theorem quadByte_mapQuad (f : Byte → Byte) (w : Quad) {r : Nat} (hr : r < 4) :
    quadByte (mapQuad f w) r = f (quadByte w r) := by
  interval_cases r <;> rfl

theorem byte_xor_rotate (a b c d : Byte) : a ^^^ b ^^^ c ^^^ d = b ^^^ c ^^^ d ^^^ a := by ac_rfl

/-- Row `r` of a circulant matrix is its first row, taken from the diagonal on (R119, R120). -/
theorem quadByte_circulant (m0 m1 m2 m3 : Byte) (w : Quad) {r : Nat} (hr : r < 4) :
    quadByte (circulant m0 m1 m2 m3 w) r =
      gmul m0 (quadByte w ((r + 0) % 4)) ^^^ gmul m1 (quadByte w ((r + 1) % 4)) ^^^
        gmul m2 (quadByte w ((r + 2) % 4)) ^^^ gmul m3 (quadByte w ((r + 3) % 4)) := by
  interval_cases r
  · rfl
  · exact byte_xor_rotate _ _ _ _
  · exact (byte_xor_rotate _ _ _ _).trans (byte_xor_rotate _ _ _ _)
  · exact (byte_xor_rotate _ _ _ _).symm

theorem blockByte_mapQuad (f : Byte → Byte) (B : Block) {k : Nat} (hk : k < 16) :
    blockByte (mapColumns (mapQuad f) B) k = f (blockByte B k) := by
  interval_cases k <;> rfl

theorem blockByte_xorBlock (A B : Block) {k : Nat} (hk : k < 16) :
    blockByte (xorBlock A B) k = blockByte A k ^^^ blockByte B k := by
  interval_cases k <;> rfl

theorem blockByte_shiftRows (B : Block) {r c : Nat} (hr : r < 4) (hc : c < 4) :
    blockByte (shiftRows B) (r + 4 * c) = blockByte B (r + 4 * ((c + r) % 4)) := by
  interval_cases r <;> interval_cases c <;> rfl

theorem blockByte_invShiftRows (B : Block) {r c : Nat} (hr : r < 4) (hc : c < 4) :
    blockByte (invShiftRows B) (r + 4 * ((c + r) % 4)) = blockByte B (r + 4 * c) := by
  rw [← blockByte_shiftRows (invShiftRows B) hr hc, shiftRows_invShiftRows]

theorem blockByte_blockOfBytes_memRead (m : Memory) (a : Nat) {k : Nat} (hk : k < 16) :
    blockByte (blockOfBytes (memRead m a 16)) k = m.read (a + k) := by
  interval_cases k <;> rfl

theorem quadByte_quadOfBytes_memRead (m : Memory) (a : Nat) {k : Nat} (hk : k < 4) :
    quadByte (quadOfBytes (memRead m a 4)) k = m.read (a + k) := by
  interval_cases k <;> rfl

/-! ### What the primitives leave at DST (40_aes_primitives.md R133 to R154) -/

/-- Byte `k` of what a command stores at DST, in a canonical memory (R13). -/
theorem read_complete_writeDst {s : State} (hwf : s.dmem.wf = true) {bs : List Byte} {k : Nat} (hk : k < bs.length) :
    (complete (writeDst bs s)).dmem.read (s.dst.toNat + k) = bs.getD k 0 :=
  memWrite_read_inside _ _ _ _ _ hwf hk

theorem roundIndex_eq_some {s : State} {i : Nat} (hlo : 1 ≤ i) (hhi : i ≤ 10) (hi : (argA s).toNat = i) :
    roundIndex s = some i := by
  simp [roundIndex, hi, hlo, hhi]

section BlockCommands

variable {s : State} (hwf : s.dmem.wf = true) (hsrc : inRange s.params s.src.toNat 16 = true)
  (hdst : inRange s.params s.dst.toNat 16 = true)

include hwf hsrc hdst

/-- With both blocks in DMEM a block command puts `f` of the block `B` at SRC to DST. -/
theorem blockCommand_stores (f : Block → Block) :
    ∃ t, blockCommand f s = next t ∧ t.code = .ok ∧ ∃ B : Block,
      (∀ k, k < 16 → blockByte B k = s.dmem.read (s.src.toNat + k)) ∧
      ∀ k, k < 16 → t.dmem.read (s.dst.toNat + k) = blockByte (f B) k := by
  have hr : operandsInRange .blk s = true := (rangesOk_pair _ _ _ _ _).2 ⟨hsrc, hdst⟩
  exact ⟨_, congrArg next (if_pos hr), rfl, blockOfBytes (readSrc 16 s),
    fun _ hk => blockByte_blockOfBytes_memRead s.dmem _ hk, fun _ hk => read_complete_writeDst hwf hk⟩

/-- A block command that applies a byte function (R133, R136). -/
theorem blockCommand_mapQuad (g : Byte → Byte) :
    ∃ t, blockCommand (mapColumns (mapQuad g)) s = next t ∧ t.code = .ok ∧
      ∀ k, k < 16 → t.dmem.read (s.dst.toNat + k) = g (s.dmem.read (s.src.toNat + k)) := by
  obtain ⟨t, ht, hok, B, hin, hout⟩ := blockCommand_stores hwf hsrc hdst (mapColumns (mapQuad g))
  exact ⟨t, ht, hok, fun k hk => by rw [hout k hk, blockByte_mapQuad g B hk, hin k hk]⟩

/-- A byte function, then ShiftRows (R134, R135). -/
theorem blockCommand_shiftRows_mapQuad (g : Byte → Byte) :
    ∃ t, blockCommand (fun B => shiftRows (mapColumns (mapQuad g) B)) s = next t ∧ t.code = .ok ∧
      ∀ r c, r < 4 → c < 4 →
        t.dmem.read (s.dst.toNat + (r + 4 * c)) = g (s.dmem.read (s.src.toNat + (r + 4 * ((c + r) % 4)))) := by
  obtain ⟨t, ht, hok, B, hin, hout⟩ := blockCommand_stores hwf hsrc hdst fun B => shiftRows (mapColumns (mapQuad g) B)
  refine ⟨t, ht, hok, fun r c hr hc => ?_⟩
  rw [hout _ (by omega), blockByte_shiftRows _ hr hc, blockByte_mapQuad g B (by omega), hin _ (by omega)]

/-- InvShiftRows, then a byte function (R137, R138). -/
theorem blockCommand_mapQuad_invShiftRows (g : Byte → Byte) :
    ∃ t, blockCommand (fun B => mapColumns (mapQuad g) (invShiftRows B)) s = next t ∧ t.code = .ok ∧
      ∀ r c, r < 4 → c < 4 →
        t.dmem.read (s.dst.toNat + (r + 4 * ((c + r) % 4))) = g (s.dmem.read (s.src.toNat + (r + 4 * c))) := by
  obtain ⟨t, ht, hok, B, hin, hout⟩ :=
    blockCommand_stores hwf hsrc hdst fun B => mapColumns (mapQuad g) (invShiftRows B)
  refine ⟨t, ht, hok, fun r c hr hc => ?_⟩
  rw [hout _ (by omega), blockByte_mapQuad g _ (by omega), blockByte_invShiftRows B hr hc, hin _ (by omega)]

/-- A block command that multiplies each column by a circulant matrix (R139, R140). -/
theorem blockCommand_circulant (m0 m1 m2 m3 : Byte) :
    ∃ t, blockCommand (mapColumns (circulant m0 m1 m2 m3)) s = next t ∧ t.code = .ok ∧
      ∀ r c, r < 4 → c < 4 →
        let a := fun j => s.dmem.read (s.src.toNat + ((r + j) % 4 + 4 * c))
        t.dmem.read (s.dst.toNat + (r + 4 * c)) =
          gmul m0 (a 0) ^^^ gmul m1 (a 1) ^^^ gmul m2 (a 2) ^^^ gmul m3 (a 3) := by
  obtain ⟨t, ht, hok, B, hin, hout⟩ := blockCommand_stores hwf hsrc hdst (mapColumns (circulant m0 m1 m2 m3))
  refine ⟨t, ht, hok, fun r c hr hc => ?_⟩
  have hcolumn : ∀ j, quadByte (blockColumn B c) ((r + j) % 4) = s.dmem.read (s.src.toNat + ((r + j) % 4 + 4 * c)) :=
    fun j => by rw [← hin _ (by omega), blockByte_eq_quadByte B (by omega) hc]
  simp only [hout (r + 4 * c) (by omega), blockByte_eq_quadByte _ hr hc, blockColumn_mapColumns _ B hc,
    quadByte_circulant _ _ _ _ _ hr, hcolumn]

/-- ARK adds the block at SRC into the one at DST (R141). -/
theorem execArk_adds :
    ∃ t, execArk s = next t ∧ t.code = .ok ∧ ∀ k, k < 16 →
      t.dmem.read (s.dst.toNat + k) = s.dmem.read (s.dst.toNat + k) ^^^ s.dmem.read (s.src.toNat + k) := by
  have hr : operandsInRange .blk2 s = true := (rangesOk_pair _ _ _ _ _).2 ⟨hsrc, hdst⟩
  refine ⟨_, congrArg next (if_pos hr), rfl, fun k hk => (read_complete_writeDst hwf hk).trans ?_⟩
  rw [← blockByte_blockOfBytes_memRead s.dmem _ hk, ← blockByte_blockOfBytes_memRead s.dmem _ hk]
  exact blockByte_xorBlock _ _ hk

end BlockCommands

/-- Settles O19: both commands apply a byte function to the whole block before they write. -/
theorem subBytesCommandsSubstituteEachByte : Obligations.SubBytesCommandsSubstituteEachByte :=
  fun _ hwf hsrc hdst => ⟨blockCommand_mapQuad hwf hsrc hdst sbox, blockCommand_mapQuad hwf hsrc hdst sboxInv⟩

/-- Settles O20: with no substitution, SHIFTROWS and ISHIFTROWS are the combined steps for `g = id`. -/
theorem shiftRowsCommandsRotateRows : Obligations.ShiftRowsCommandsRotateRows :=
  fun _ hwf hsrc hdst =>
    ⟨blockCommand_shiftRows_mapQuad hwf hsrc hdst id, blockCommand_shiftRows_mapQuad hwf hsrc hdst sbox,
      blockCommand_mapQuad_invShiftRows hwf hsrc hdst id, blockCommand_mapQuad_invShiftRows hwf hsrc hdst sboxInv⟩

/-- Settles O21: both matrices are circulant, and a product with 01 is the byte itself. -/
theorem mixColumnsCommandsMultiplyColumns : Obligations.MixColumnsCommandsMultiplyColumns := by
  intro s hwf hsrc hdst
  refine ⟨?_, blockCommand_circulant hwf hsrc hdst 0x0e 0x0b 0x0d 0x09⟩
  have h := blockCommand_circulant hwf hsrc hdst 0x02 0x03 0x01 0x01
  simp only [gmul_one_left] at h
  exact h

/-- Settles O22: on one block the sum is of each byte with itself. -/
theorem arkAddsTheKeyBlock : Obligations.ArkAddsTheKeyBlock := by
  intro s hwf hsrc hdst
  obtain ⟨t, ht, hok, hsum⟩ := execArk_adds hwf hsrc hdst
  exact ⟨t, ht, hok, hsum, fun heq k hk => (hsum k hk).trans (heq ▸ BitVec.xor_self)⟩

/-- Settles O23: only RCON makes a check, of its index. -/
theorem byteCommandsReportTheByte : Obligations.ByteCommandsReportTheByte := by
  refine fun s => ⟨rfl, rfl, rfl, rfl, fun n hn hA => ?_, fun hA => ?_⟩
  · have hvalue : ∀ n < 10, (rcon (n + 1)).setWidth 32 =
        ([0x01, 0x02, 0x04, 0x08, 0x10, 0x20, 0x40, 0x80, 0x1B, 0x36] : List Word).getD n 0 := by decide
    rw [← hvalue n hn]
    simp only [exec, execRcon, roundIndex_eq_some (by omega) (by omega) hA]
    rfl
  · have hi : roundIndex s = none := by rw [roundIndex, if_neg (by omega)]
    simp only [exec, execRcon, hi]
    rfl

/-! ### The word commands (40_aes_primitives.md R122, R123, R147, R148) -/

theorem keyCore_eq (w : Quad) (i : Nat) :
    keyCore w i = ⟨sbox w.b1 ^^^ rcon i, sbox w.b2, sbox w.b3, sbox w.b0⟩ := by
  simp [keyCore, xorQuad, subWord, mapQuad, rotWord]

/-- Settles O26: each command passes its checks, then its word is read back byte by byte. -/
theorem wordCommandsSubstituteTheWord : Obligations.WordCommandsSubstituteTheWord := by
  intro s hwf hsrc hdst
  have hr : rangesOk s.params [(s.src.toNat, 4), (s.dst.toNat, 4)] = true := (rangesOk_pair _ _ _ _ _).2 ⟨hsrc, hdst⟩
  have hread : ∀ (w : Quad) (k : Nat), k < 4 →
      (complete (writeDst (quadBytes w) s)).dmem.read (s.dst.toNat + k) = quadByte w k :=
    fun _ _ hk => read_complete_writeDst hwf hk
  refine ⟨fun i hlo hhi hi => ?_, _, congrArg next (if_pos hr), rfl, fun k hk => ?_⟩
  · have hcore : exec .kcore s = next (complete (writeDst (quadBytes (keyCore (quadOfBytes (readSrc 4 s)) i)) s)) := by
      simp only [exec, execKcore, roundIndex_eq_some hlo hhi hi]
      exact congrArg next (if_pos hr)
    rw [keyCore_eq] at hcore
    exact ⟨_, hcore, rfl, hread _ 0 (by omega), hread _ 1 (by omega), hread _ 2 (by omega), hread _ 3 (by omega)⟩
  · rw [hread _ k hk, subWord, quadByte_mapQuad sbox _ hk, readSrc, quadByte_quadOfBytes_memRead _ _ hk]

/-! ### Key windows (40_aes_primitives.md R124 to R126) -/

theorem reduceTail_expandTail (nk j : Nat) (prev : Quad) (ws : List Quad) :
    reduceTail nk j prev (expandTail nk j prev ws) = ws := by
  induction ws generalizing j prev with
  | nil => rfl
  | cons w ws ih => simp [expandTail, reduceTail, ih]

theorem expandTail_reduceTail (nk j : Nat) (prev : Quad) (ns : List Quad) :
    expandTail nk j prev (reduceTail nk j prev ns) = ns := by
  induction ns generalizing j prev with
  | nil => rfl
  | cons n ns ih => simp [expandTail, reduceTail, ih]

theorem wordAt_cons_of_pos {j : Nat} (h : 0 < j) (a b : Quad) (ws : List Quad) :
    wordAt (a :: ws) j = wordAt (b :: ws) j := by
  cases j with
  | zero => omega
  | succ j => rfl

theorem kStep_cons (w : Quad) (ws : List Quad) (i : Nat) :
    kStep (w :: ws) i = xorQuad w (keyCore (wordAt (w :: ws) ws.length) i) ::
      expandTail (ws.length + 1) 1 (xorQuad w (keyCore (wordAt (w :: ws) ws.length) i)) ws := rfl

theorem ikStep_cons (n : Quad) (ns : List Quad) (i : Nat) :
    ikStep (n :: ns) i =
      xorQuad n (keyCore (wordAt (n :: reduceTail (ns.length + 1) 1 n ns) ns.length) i) ::
        reduceTail (ns.length + 1) 1 n ns := rfl

/-- The two steps add the same key-schedule core to the first word, because the windows agree on the last one (R126). -/
theorem ikStep_kStep (w : Quad) {ws : List Quad} (h : 0 < ws.length) (i : Nat) :
    ikStep (kStep (w :: ws) i) i = w :: ws := by
  rw [kStep_cons, ikStep_cons, expandTail_length, reduceTail_expandTail, wordAt_cons_of_pos h (xorQuad w _) w,
    xorQuad_self_right]

theorem kStep_ikStep (n : Quad) {ns : List Quad} (h : 0 < ns.length) (i : Nat) :
    kStep (ikStep (n :: ns) i) i = n :: ns := by
  rw [ikStep_cons, kStep_cons, reduceTail_length, wordAt_cons_of_pos h (xorQuad n _) n, xorQuad_self_right,
    expandTail_reduceTail]

/-- Settles O29, by the two directions for a window with a tail. -/
theorem keyStepsUndoEachOther : Obligations.KeyStepsUndoEachOther := by
  intro W i hW _ _
  cases W with
  | nil => simp at hW
  | cons w ws =>
    rw [List.length_cons] at hW
    exact ⟨ikStep_kStep w (by omega) i, kStep_ikStep w (by omega) i⟩

/-- Word `m + 1` of a window that `expandTail` continues (R124). -/
theorem wordAt_expandTail (nk j : Nat) (prev : Quad) (ws : List Quad) {m : Nat} (hm : m < ws.length) :
    wordAt (prev :: expandTail nk j prev ws) (m + 1) =
      xorQuad (wordAt ws m) (carryIn nk (j + m) (wordAt (prev :: expandTail nk j prev ws) m)) := by
  induction ws generalizing j prev m with
  | nil => simp at hm
  | cons w ws ih =>
    cases m with
    | zero => rfl
    | succ m =>
      have hnext := ih (j + 1) (xorQuad w (carryIn nk j prev)) (Nat.lt_of_succ_lt_succ hm)
      rwa [Nat.add_assoc, Nat.add_comm 1 m] at hnext

theorem wordAt_kStep_zero {W : List Quad} (h : 0 < W.length) (i : Nat) :
    wordAt (kStep W i) 0 = xorQuad (wordAt W 0) (keyCore (wordAt W (W.length - 1)) i) := by
  cases W with
  | nil => simp at h
  | cons w ws => rfl

theorem wordAt_kStep_succ {W : List Quad} {j : Nat} (h : j + 1 < W.length) (i : Nat) :
    wordAt (kStep W i) (j + 1) =
      xorQuad (wordAt W (j + 1)) (carryIn W.length (j + 1) (wordAt (kStep W i) j)) := by
  cases W with
  | nil => simp at h
  | cons w ws =>
    rw [kStep_cons, wordAt_expandTail _ _ _ _ (Nat.lt_of_succ_lt_succ h), Nat.add_comm 1 j]
    rfl

/-- Word `j` of the bytes of a window in DMEM (R11, R124). -/
theorem wordAt_words_memRead (m : Memory) (a n : Nat) {j : Nat} (hj : j < n) :
    wordAt (words (memRead m a (4 * n))) j = quadOfBytes (memRead m (a + 4 * j) 4) := by
  induction n generalizing a j with
  | zero => omega
  | succ n ih =>
    cases j with
    | zero => rfl
    | succ j =>
      have htail := ih (a + 4) (Nat.lt_of_succ_lt_succ hj)
      rwa [show a + 4 + 4 * j = a + 4 * (j + 1) by omega] at htail

/-- With an accepted round index and both windows in DMEM, a window command leaves the stepped window at DST. -/
theorem windowCommand_stores {s : State} {n i : Nat} {f : List Quad → Nat → List Quad}
    (hlen : ∀ W, (f W i).length = W.length) (hwf : s.dmem.wf = true) (hround : roundIndex s = some i)
    (hsrc : inRange s.params s.src.toNat (4 * n) = true) (hdst : inRange s.params s.dst.toNat (4 * n) = true) :
    ∃ t, windowCommand (4 * n) f s = next t ∧ t.code = .ok ∧
      words (memRead t.dmem s.dst.toNat (4 * n)) = f (words (memRead s.dmem s.src.toNat (4 * n))) i := by
  have hr : operandsInRange (.win (4 * n)) s = true := (rangesOk_pair _ _ _ _ _).2 ⟨hsrc, hdst⟩
  have hbytes : (wordsBytes (f (words (readSrc (4 * n) s)) i)).length = 4 * n := by
    rw [wordsBytes_length, hlen, words_readSrc_length s rfl]
  refine ⟨complete (writeDst (wordsBytes (f (words (readSrc (4 * n) s)) i)) s), ?_, rfl, ?_⟩
  · simp only [windowCommand, hround, if_pos hr]
  · have hback := memRead_memWrite s.dst.toNat (wordsBytes (f (words (readSrc (4 * n) s)) i)) hwf
    rw [hbytes] at hback
    exact (congrArg words hback).trans (words_wordsBytes _)

/-- KSTEP128, KSTEP192 and KSTEP256 are one command on windows of 4, 6 and 8 words (R149 to R151). -/
theorem exec_kstep {nk : Nat} {cmd : Instr}
    (h : (cmd, nk) ∈ [(Instr.kstep128, 4), (.kstep192, 6), (.kstep256, 8)]) (s : State) :
    1 < nk ∧ exec cmd s = windowCommand (4 * nk) kStep s := by
  simp only [List.mem_cons, Prod.mk.injEq, List.not_mem_nil, or_false] at h
  obtain ⟨rfl, rfl⟩ | ⟨rfl, rfl⟩ | ⟨rfl, rfl⟩ := h <;> exact ⟨by omega, rfl⟩

/-- IKSTEP128, IKSTEP192 and IKSTEP256 are one command on windows of 4, 6 and 8 words (R152 to R154). -/
theorem exec_ikstep {nk : Nat} {cmd : Instr}
    (h : (cmd, nk) ∈ [(Instr.ikstep128, 4), (.ikstep192, 6), (.ikstep256, 8)]) (s : State) :
    (nk = 4 ∨ nk = 6 ∨ nk = 8) ∧ exec cmd s = windowCommand (4 * nk) ikStep s := by
  simp only [List.mem_cons, Prod.mk.injEq, List.not_mem_nil, or_false] at h
  obtain ⟨rfl, rfl⟩ | ⟨rfl, rfl⟩ | ⟨rfl, rfl⟩ := h <;> exact ⟨by omega, rfl⟩

/-- Settles O27: the window read back at DST is `kStep` of the one at SRC, whose words are those of R124. -/
theorem expansionStepCommandsWriteTheNextWindow : Obligations.ExpansionStepCommandsWriteTheNextWindow := by
  intro nk cmd hcmd s i hwf hlo hhi hi hsrc hdst
  obtain ⟨hnk, hexec⟩ := exec_kstep hcmd s
  obtain ⟨t, ht, hok, hwindow⟩ := windowCommand_stores (f := kStep) (kStep_length · i) hwf
    (roundIndex_eq_some hlo hhi hi) hsrc hdst
  have hlen : (words (memRead s.dmem s.src.toNat (4 * nk))).length = nk := words_readSrc_length s rfl
  refine ⟨t, hexec.trans ht, hok, ?_, fun j hj hjn => ?_⟩
  · have hword := wordAt_kStep_zero (by omega : 0 < (words (memRead s.dmem s.src.toNat (4 * nk))).length) i
    rw [← hwindow, hlen] at hword
    simpa [wordAt_words_memRead, show 0 < nk by omega, show nk - 1 < nk by omega] using hword
  · obtain ⟨j, rfl⟩ : ∃ m, j = m + 1 := ⟨j - 1, by omega⟩
    have hword := wordAt_kStep_succ (W := words (memRead s.dmem s.src.toNat (4 * nk))) (hlen.symm ▸ hjn) i
    rw [← hwindow, hlen, wordAt_words_memRead _ _ _ hjn, wordAt_words_memRead _ _ _ hjn,
      wordAt_words_memRead _ _ _ (by omega), carryIn] at hword
    dsimp only [Nat.add_sub_cancel]
    rw [hword]
    split_ifs with h8
    · obtain ⟨-, h4⟩ := h8
      rw [show j = 3 by omega]
    · rfl

/-- Settles O28: the window read back at DST is `ikStep` of the one at SRC, which O29 takes back. -/
theorem reverseStepCommandsWriteThePreviousWindow : Obligations.ReverseStepCommandsWriteThePreviousWindow := by
  intro nk cmd hcmd s i hwf hlo hhi hi hsrc hdst
  obtain ⟨hnk, hexec⟩ := exec_ikstep hcmd s
  obtain ⟨t, ht, hok, hwindow⟩ := windowCommand_stores (f := ikStep) (ikStep_length · i) hwf
    (roundIndex_eq_some hlo hhi hi) hsrc hdst
  have hlen : (words (memRead s.dmem s.src.toNat (4 * nk))).length = nk := words_readSrc_length s rfl
  refine ⟨t, hexec.trans ht, hok, ?_⟩
  rw [hwindow]
  exact (keyStepsUndoEachOther _ i (by rwa [hlen]) hlo hhi).2

end Sys2Proof.Machine

namespace Sys2Proof.Machine

open Host.Outcome

/-! ### Stored schedules and windows (10_state.md R36 to R38; 41_aes_variants.md R161, R162) -/

theorem padTo_toList {α : Type} {n : Nat} (z : α) {l : List α} (h : l.length ≤ n) :
    (padTo n z l).toList = l ++ List.replicate (n - l.length) z := by
  refine List.ext_getElem (by simp; omega) fun i hi _ => ?_
  rw [Vector.length_toList] at hi
  rcases Nat.lt_or_ge i l.length with hl | hl
  · simp [padTo, hl]
  · simp [padTo, hl, List.getElem_append_right]

theorem padTo_getElem {α : Type} (n : Nat) (z : α) (l : List α) {i : Nat} (hi : i < n) :
    (padTo n z l)[i] = l.getD i z := by
  simp [padTo]

/-- A stored window is zero beyond the key's length (R36). -/
theorem padTo_getElem_beyond {α : Type} {n : Nat} (z : α) {l : List α} {i : Nat} (hi : i < n) (h : l.length ≤ i) :
    (padTo n z l)[i] = z := by
  rw [padTo_getElem, List.getD_eq_default _ _ h]

theorem take_padTo {α : Type} {n k : Nat} (z : α) {l : List α} (hk : l.length = k) (h : k ≤ n) :
    (padTo n z l).toList.take k = l := by
  rw [padTo_toList z (hk.trans_le h), ← hk, List.take_left]

theorem getD_padTo {α : Type} {n : Nat} (z : α) {l : List α} (h : l.length ≤ n) (i : Nat) :
    (padTo n z l).toList.getD i z = l.getD i z := by
  rw [padTo_toList z h]
  rcases Nat.lt_or_ge i l.length with hi | hi
  · rw [List.getD_append _ _ _ _ hi]
  · rw [List.getD_append_right _ _ _ _ hi, List.getD_eq_getElem?_getD,
      List.getElem?_getD_replicate_default_eq, List.getD_eq_default _ _ hi]

theorem keyWords_le (v : Variant) : keyWords v ≤ 8 := by cases v <;> decide

theorem rounds_lt (v : Variant) : rounds v < 15 := by cases v <;> decide

/-- The tiers that keep windows have keys of 4 or 8 words (R30, R161). -/
theorem keyWords_of_windowTier {v : Variant} (h : tier v ≠ .full) : keyWords v = 4 ∨ keyWords v = 8 := by
  cases v with
  | full128 | full192 | full256 => exact absurd rfl h
  | tiny128 | small128 => exact .inl rfl
  | tiny256 | small256 => exact .inr rfl

/-! ### Schedules as lists of round keys (10_state.md R37; 40_aes_primitives.md R128) -/

theorem keyAt_map_range (f : Nat → Block) (n r : Nat) :
    keyAt ((List.range (n + 1)).map f) r = if r ≤ n then f r else Block.zero := by
  simp only [keyAt, List.getD_eq_getElem?_getD, List.getElem?_map]
  split_ifs with h
  · simp [Nat.lt_succ_of_le h]
  · simp [Nat.lt_of_not_le h]

theorem keyAt_roundKeys (K : List Quad) (nr r : Nat) :
    keyAt (roundKeys K nr) r = if r ≤ nr then roundKey K r else Block.zero := keyAt_map_range _ nr r

theorem keyAt_decryptionKeys (rk : List Block) (nr j : Nat) :
    keyAt (decryptionKeys rk nr) j = if j ≤ nr then decryptionKey rk nr j else Block.zero := keyAt_map_range _ nr j

/-- The decryption schedule of a key is the reversed one, with InvMixColumns on all but the outer round keys (R37). -/
theorem keyAt_decryptionKeys_roundKeys (K : List Quad) {nr : Nat} (hnr : 0 < nr) (j : Nat) :
    keyAt (decryptionKeys (roundKeys K nr) nr) j =
      if j = 0 then roundKey K nr else if j < nr then invMixColumns (roundKey K (nr - j))
      else if j = nr then roundKey K 0 else Block.zero := by
  rw [keyAt_decryptionKeys, decryptionKey, keyAt_roundKeys, if_pos (Nat.sub_le nr j)]
  rcases Nat.eq_zero_or_pos j with rfl | hj
  · simp
  · rcases Nat.lt_trichotomy j nr with hlt | rfl | hgt
    · simp [hlt, hlt.le, hlt.ne, hj.ne']
    · simp [hj.ne']
    · simp [hgt.not_ge, hgt.not_gt, hgt.ne', hj.ne']

/-! ### What AesSetup stores (41_aes_variants.md R162) -/

section Setup

variable {v : Variant} {K : List Quad}

theorem aesSetup_of_full (h : tier v = .full) : aesSetup v K =
    { AesCtx.cleared with
      keyed := true, ek := padTo 15 Block.zero (roundKeys K (rounds v))
      dk := padTo 15 Block.zero (decryptionKeys (roundKeys K (rounds v)) (rounds v)) } := by
  simp only [aesSetup, h]

theorem aesSetup_of_tiny (h : tier v = .tiny) :
    aesSetup v K = { AesCtx.cleared with keyed := true, k0 := padTo 8 Quad.zero K } := by
  simp only [aesSetup, h]

theorem aesSetup_of_small (h : tier v = .small) : aesSetup v K =
    { AesCtx.cleared with
      keyed := true, k0 := padTo 8 Quad.zero K, kf := padTo 8 Quad.zero (wnd K (windowSteps v)) } := by
  simp only [aesSetup, h]

/-- Both window tiers keep the key itself (R162). -/
theorem aesSetup_k0 (h : tier v ≠ .full) : (aesSetup v K).k0 = padTo 8 Quad.zero K := by
  cases ht : tier v with
  | full => exact absurd ht h
  | tiny => rw [aesSetup_of_tiny ht]
  | small => rw [aesSetup_of_small ht]

theorem firstWindow_aesSetup (h : tier v ≠ .full) (hK : K.length = keyWords v) :
    firstWindow (aesSetup v K) v = K := by
  rw [firstWindow, aesSetup_k0 h, take_padTo _ hK (keyWords_le v)]

theorem finalWindow_aesSetup (h : tier v = .small) (hK : K.length = keyWords v) :
    finalWindow (aesSetup v K) v = wnd K (windowSteps v) := by
  rw [finalWindow, aesSetup_of_small h, take_padTo _ ((wnd_length K _).trans hK) (keyWords_le v)]

end Setup

/-! ### The key expansion as a sequence of windows (40_aes_primitives.md R127, R128; 41_aes_variants.md R165, R166) -/

section Windows

variable {K : List Quad}

/-- The words laid out from window `m` on: word `i` of window `m + j` is word `Nk·j + i`. -/
theorem wordAt_expandFrom {n m j i : Nat} (hj : j ≤ n) (hi : i < K.length) :
    wordAt (expandFrom n (m + 1) (wnd K m)) (K.length * j + i) = wordAt (wnd K (m + j)) i := by
  induction n generalizing m j with
  | zero =>
    obtain rfl : j = 0 := by omega
    simp [expandFrom]
  | succ n ih =>
    cases j with
    | zero =>
      have hlt : i < (wnd K m).length := by rwa [wnd_length]
      simp [expandFrom, wordAt, List.getElem?_append_left hlt]
    | succ j =>
      have hnext := ih (m := m + 1) (j := j) (by omega)
      rw [← Nat.add_assoc, Nat.add_right_comm m, ← hnext, expandFrom, wordAt,
        List.getD_append_right _ _ _ _ (by rw [wnd_length, Nat.mul_succ]; omega), wnd_length, Nat.mul_succ,
        show K.length * j + K.length + i - K.length = K.length * j + i by omega]
      rfl

theorem wordAt_expansion {j i : Nat} (hj : j ≤ stepsOf K.length) (hi : i < K.length) :
    wordAt (expansion K) (K.length * j + i) = wordAt (wnd K j) i :=
  (wordAt_expandFrom (m := 0) hj hi).trans (by rw [Nat.zero_add])

/-- The round key whose words are those from `p` on of window `j`. -/
theorem roundKey_eq_blockAtWord {r j p : Nat} (hj : j ≤ stepsOf K.length) (hp : p + 4 ≤ K.length)
    (h : 4 * r = K.length * j + p) : roundKey K r = blockAtWord (wnd K j) p := by
  have hword : ∀ i < 4, wordAt (expansion K) (4 * r + i) = wordAt (wnd K j) (p + i) := fun i hi => by
    rw [h, Nat.add_assoc, wordAt_expansion hj (by omega)]
  have h0 := hword 0 (by omega)
  rw [roundKey, blockAtWord, hword 1 (by omega), hword 2 (by omega), hword 3 (by omega)]
  exact congrArg (Block.mk · _ _ _) h0

/-- The final window begins with the last round key (R38). -/
theorem roundKey_rounds {v : Variant} (h : tier v ≠ .full) (hK : K.length = keyWords v) :
    roundKey K (rounds v) = blockAtWord (wnd K (windowSteps v)) 0 := by
  have hwords := keyWords_of_windowTier h
  refine roundKey_eq_blockAtWord ?_ (by omega) ?_
  · rw [hK]
    exact le_rfl
  · rw [hK]
    rcases hwords with hv | hv <;> simp [rounds, windowSteps, stepsOf, hv]

/-- The number of the window that holds round key `r`, for a key of 4 or 8 words (R165). -/
def windowIndex (nk r : Nat) : Nat := if nk = 4 then r else r / 2

theorem roundKey_eq_windowKey (hK : K.length = 4 ∨ K.length = 8) {r : Nat} (hr : r ≤ K.length + 6) :
    roundKey K r = windowKey K.length r (wnd K (windowIndex K.length r)) := by
  rcases hK with hK | hK <;> rw [hK] at hr ⊢
  · have hj : r ≤ stepsOf K.length := by rw [hK]; exact hr
    exact roundKey_eq_blockAtWord hj (by omega) (by rw [hK]; rfl)
  · have hj : r / 2 ≤ stepsOf K.length := by rw [hK]; exact Nat.div_le_of_le_mul hr
    have hne : ¬(8 : Nat) = 4 := by decide
    simp only [windowKey, windowIndex, if_neg hne]
    split_ifs with hodd
    · exact roundKey_eq_blockAtWord hj (by omega) (by rw [hK]; omega)
    · exact roundKey_eq_blockAtWord hj (by omega) (by rw [hK]; omega)

theorem windowIndex_zero (nk : Nat) : windowIndex nk 0 = 0 := by simp [windowIndex]

theorem windowKey_zero (nk : Nat) (W : List Quad) : windowKey nk 0 W = blockAtWord W 0 := by simp [windowKey]

/-- The final window is that of the last round (R166). -/
theorem windowIndex_rounds {v : Variant} (h : tier v ≠ .full) :
    windowIndex (keyWords v) (rounds v) = windowSteps v := by
  rcases keyWords_of_windowTier h with hv | hv <;> simp [windowIndex, rounds, windowSteps, stepsOf, hv]

/-- Going forward, the window of round `r` becomes the one of round `r + 1` (R165). -/
theorem forwardWindow_wnd (nk r : Nat) (K : List Quad) :
    forwardWindow nk (r + 1) (wnd K (windowIndex nk r)) = wnd K (windowIndex nk (r + 1)) := by
  simp only [forwardWindow, windowIndex]
  split_ifs with h4 hodd
  · rfl
  · rw [show (r + 1) / 2 = r / 2 by omega]
  · rw [show (r + 1) / 2 = r / 2 + 1 by omega]
    rfl

theorem ikStep_wnd (hK : 1 < K.length) (j : Nat) : ikStep (wnd K (j + 1)) (j + 1) = wnd K j := by
  have hlen := wnd_length K j
  rw [wnd]
  cases hW : wnd K j with
  | nil => rw [hW] at hlen; simp at hlen; omega
  | cons w ws =>
    rw [hW, List.length_cons] at hlen
    exact ikStep_kStep w (by omega) _

/-- Going backward, the window of round `r + 1` becomes the one of round `r` (R166). -/
theorem backwardWindow_wnd (nk r : Nat) (hK : 1 < K.length) :
    backwardWindow nk r (wnd K (windowIndex nk (r + 1))) = wnd K (windowIndex nk r) := by
  simp only [backwardWindow, windowIndex]
  split_ifs with h4 hodd
  · exact ikStep_wnd hK r
  · rw [show (r + 1) / 2 = r / 2 + 1 by omega]
    exact ikStep_wnd hK _
  · rw [show (r + 1) / 2 = r / 2 by omega]

end Windows

/-- Settles O30, tier by tier. -/
theorem setupStoresTheScheduleOfTheTier : Obligations.SetupStoresTheScheduleOfTheTier := by
  intro v K hK c rk nr
  refine ⟨aesSetup_keyed v K, fun hfull => ?_, fun hwindow => ?_, fun htiny => ?_, fun hsmall => ?_⟩
  · rw [show c = _ from aesSetup_of_full hfull]
    exact ⟨fun r hr => (padTo_getElem ..).trans (keyAt_roundKeys K nr r),
      fun j hj => (padTo_getElem ..).trans (keyAt_decryptionKeys_roundKeys K (Nat.succ_pos _) j), rfl, rfl⟩
  · have htier : tier v ≠ .full := by rcases hwindow with h | h <;> simp [h]
    refine ⟨firstWindow_aesSetup htier hK, fun j hj hjK => ?_, ?_⟩
    · rw [aesSetup_k0 htier, padTo_getElem_beyond _ hj (hK.trans_le hjK)]
    · rcases hwindow with h | h
      · rw [show c = _ from aesSetup_of_tiny h]
        exact ⟨rfl, rfl⟩
      · rw [show c = _ from aesSetup_of_small h]
        exact ⟨rfl, rfl⟩
  · rw [show c = _ from aesSetup_of_tiny htiny]
  · have htier : tier v ≠ .full := by simp [hsmall]
    have hlast := finalWindow_aesSetup hsmall hK
    refine ⟨hlast, ?_, fun j hj hjK => ?_⟩
    · rw [hlast]
      exact (roundKey_rounds htier hK).symm
    · rw [show c = _ from aesSetup_of_small hsmall,
        padTo_getElem_beyond _ hj (((wnd_length K _).trans hK).trans_le hjK)]

/-! ### The cipher and its inverse (40_aes_primitives.md R129 to R131) -/

section Cipher

variable {rk dk : List Block} {nr : Nat}

/-- The cipher depends on the round keys alone, not on the list that holds them. -/
theorem cipherRounds_congr (h : ∀ r, keyAt dk r = keyAt rk r) (n r : Nat) (s : Block) :
    cipherRounds dk n r s = cipherRounds rk n r s := by
  induction n generalizing r s with
  | zero => rfl
  | succ n ih => rw [cipherRounds, h, ih, cipherRounds]

theorem cipher_congr (h : ∀ r, keyAt dk r = keyAt rk r) (nr : Nat) (P : Block) :
    cipher dk nr P = cipher rk nr P := by
  simp only [cipher, h, cipherRounds_congr h]

/-- The last of `n + 1` rounds is that of round key `r + n`. -/
theorem cipherRounds_succ (rk : List Block) (n r : Nat) (s : Block) :
    cipherRounds rk (n + 1) r s =
      xorBlock (mixColumns (shiftRows (subBytes (cipherRounds rk n r s)))) (keyAt rk (r + n)) := by
  induction n generalizing r s with
  | zero => rfl
  | succ n ih => rw [cipherRounds, ih, cipherRounds, Nat.add_right_comm, Nat.add_assoc]

/-- The inverse rounds undo the rounds, last round first (R129, R130). -/
theorem invCipherRounds_cipherRounds (rk : List Block) (n : Nat) (s : Block) :
    invCipherRounds rk n (shiftRows (subBytes (cipherRounds rk n 1 s))) = shiftRows (subBytes s) := by
  induction n with
  | zero => rfl
  | succ n ih =>
    rw [invCipherRounds, invSubBytes_invShiftRows_shiftRows_subBytes, cipherRounds_succ, Nat.add_comm 1 n,
      xorBlock_self_right, invMixColumns_mixColumns, ih]

theorem invCipher_cipher (rk : List Block) (nr : Nat) (P : Block) : invCipher rk nr (cipher rk nr P) = P := by
  simp only [invCipher, cipher, xorBlock_self_right, invCipherRounds_cipherRounds,
    invSubBytes_invShiftRows_shiftRows_subBytes]

theorem invMixColumns_xorBlock (A B : Block) :
    invMixColumns (xorBlock A B) = xorBlock (invMixColumns A) (invMixColumns B) := by
  simp only [invMixColumns, mapColumns, xorBlock, circulant_xorQuad]

/-- With InvMixColumns inside its inner keys, the equivalent inverse cipher mixes before it adds the key (R131). -/
theorem eqInvRounds_eq_invCipherRounds (hdk : ∀ j ≤ nr, keyAt dk j = decryptionKey rk nr j) {n j : Nat}
    (hj : 0 < j) (h : j + n = nr) (s : Block) : eqInvRounds dk n j s = invCipherRounds rk n s := by
  induction n generalizing j s with
  | zero => rfl
  | succ n ih =>
    have hkey : keyAt dk j = invMixColumns (keyAt rk (n + 1)) := by
      rw [hdk j (by omega), decryptionKey, if_neg (by omega), show nr - j = n + 1 by omega]
    rw [eqInvRounds, hkey, ← invMixColumns_xorBlock, ih (Nat.succ_pos j) (by omega), invCipherRounds]

theorem eqInvCipher_eq_invCipher (hnr : 0 < nr) (hdk : ∀ j ≤ nr, keyAt dk j = decryptionKey rk nr j) (C : Block) :
    eqInvCipher dk nr C = invCipher rk nr C := by
  have hfirst : keyAt dk 0 = keyAt rk nr := by simp [hdk, decryptionKey]
  have hlast : keyAt dk nr = keyAt rk 0 := by simp [hdk, decryptionKey]
  simp only [eqInvCipher, invCipher, hfirst, hlast,
    eqInvRounds_eq_invCipherRounds hdk Nat.one_pos (show 1 + (nr - 1) = nr by omega)]

end Cipher

/-! ### The cipher on windows (41_aes_variants.md R165 to R168) -/

section WindowCipher

variable {rk : List Block} {K : List Quad} {nk nr : Nat}
  (hrk : ∀ r ≤ nr, keyAt rk r = windowKey nk r (wnd K (windowIndex nk r)))

include hrk

/-- The rounds from `r + 1` on, with the window of round `r` (R129, R165). -/
theorem tinyRounds_eq_cipherRounds {n r : Nat} (h : r + n + 1 = nr) (s : Block) :
    tinyRounds nk nr (n + 1) (r + 1) (wnd K (windowIndex nk r)) s =
      xorBlock (shiftRows (subBytes (cipherRounds rk n (r + 1) s))) (keyAt rk nr) := by
  induction n generalizing r s with
  | zero =>
    obtain rfl : r + 1 = nr := h
    rw [tinyRounds, forwardWindow_wnd, if_neg (lt_irrefl _), ← hrk _ le_rfl]
    rfl
  | succ n ih =>
    rw [tinyRounds, forwardWindow_wnd, if_pos (by omega), ← hrk _ (by omega), ih (by omega), cipherRounds]

/-- The rounds `r` to 0, with the window of round `r + 1` (R130, R166). -/
theorem revRounds_eq_invCipherRounds (hK : 1 < K.length) {r : Nat} (h : r + 1 ≤ nr) (s : Block) :
    revRounds nk (r + 1) (wnd K (windowIndex nk (r + 1))) s =
      xorBlock (invSubBytes (invShiftRows (invCipherRounds rk r s))) (keyAt rk 0) := by
  induction r generalizing s with
  | zero =>
    rw [revRounds, backwardWindow_wnd _ _ hK, ← hrk _ (Nat.zero_le _)]
    rfl
  | succ r ih =>
    rw [revRounds, backwardWindow_wnd _ _ hK, ← hrk _ (by omega), if_pos (Nat.succ_pos r), ih (by omega),
      invCipherRounds]

end WindowCipher

section Tiers

variable {v : Variant} {K : List Quad} (hK : K.length = keyWords v)

include hK

/-- The round keys of a window tier, each in its window (R165). -/
theorem keyAt_roundKeys_eq_windowKey (h : tier v ≠ .full) {r : Nat} (hr : r ≤ rounds v) :
    keyAt (roundKeys K (rounds v)) r = windowKey (keyWords v) r (wnd K (windowIndex (keyWords v) r)) := by
  rw [keyAt_roundKeys, if_pos hr, ← hK]
  exact roundKey_eq_windowKey (hK ▸ keyWords_of_windowTier h) (hK ▸ hr)

theorem encFromWindow_eq_cipher (h : tier v ≠ .full) (P : Block) :
    encFromWindow K v P = cipher (roundKeys K (rounds v)) (rounds v) P := by
  have hrk := fun r => keyAt_roundKeys_eq_windowKey hK h (r := r)
  have hfirst : blockAtWord K 0 = keyAt (roundKeys K (rounds v)) 0 := by
    rw [hrk 0 (Nat.zero_le _), windowIndex_zero, windowKey_zero, wnd]
  have hrounds := tinyRounds_eq_cipherRounds hrk (n := rounds v - 1) (r := 0) (by rw [rounds]; omega)
    (xorBlock P (blockAtWord K 0))
  rw [windowIndex_zero] at hrounds
  rw [cipher, ← hfirst]
  exact hrounds

theorem revDec_eq_invCipher (h : tier v ≠ .full) (C : Block) :
    revDec (wnd K (windowSteps v)) v C = invCipher (roundKeys K (rounds v)) (rounds v) C := by
  have hrk := fun r => keyAt_roundKeys_eq_windowKey hK h (r := r)
  have hlast : keyAt (roundKeys K (rounds v)) (rounds v) = blockAtWord (wnd K (windowSteps v)) 0 := by
    rw [keyAt_roundKeys, if_pos le_rfl, roundKey_rounds h hK]
  have hlen : 1 < K.length := by rcases keyWords_of_windowTier h with hv | hv <;> omega
  have hrounds := revRounds_eq_invCipherRounds hrk hlen (r := rounds v - 1) (by rw [rounds]; omega)
    (xorBlock C (blockAtWord (wnd K (windowSteps v)) 0))
  rw [show rounds v - 1 + 1 = rounds v from rfl, windowIndex_rounds h] at hrounds
  rw [invCipher, hlast]
  exact hrounds

/-- Encryption is the cipher of the key, in every tier (R163, R165, R168, R170). -/
theorem aesEnc_aesSetup (P : Block) : aesEnc (aesSetup v K) v P = cipher (roundKeys K (rounds v)) (rounds v) P := by
  cases ht : tier v with
  | full =>
    simp only [aesEnc, ht, fullEnc, aesSetup_of_full ht]
    exact cipher_congr (getD_padTo _ (by simpa [roundKeys] using rounds_lt v)) _ _
  | tiny =>
    have htier : tier v ≠ .full := by simp [ht]
    simp only [aesEnc, ht, tinyEnc, firstWindow_aesSetup htier hK, encFromWindow_eq_cipher hK htier]
  | small =>
    have htier : tier v ≠ .full := by simp [ht]
    simp only [aesEnc, ht, smallEnc, firstWindow_aesSetup htier hK, encFromWindow_eq_cipher hK htier]

/-- Decryption is the inverse cipher of the key, in every tier (R164, R166 to R168, R170). -/
theorem aesDec_aesSetup (C : Block) : aesDec (aesSetup v K) v C = invCipher (roundKeys K (rounds v)) (rounds v) C := by
  cases ht : tier v with
  | full =>
    simp only [aesDec, ht, fullDec, aesSetup_of_full ht]
    refine eqInvCipher_eq_invCipher (Nat.succ_pos _) (fun j hj => ?_) C
    refine (getD_padTo _ (by simpa [decryptionKeys] using rounds_lt v) j).trans ?_
    exact (keyAt_decryptionKeys _ _ j).trans (if_pos hj)
  | tiny =>
    have htier : tier v ≠ .full := by simp [ht]
    simp only [aesDec, ht, tinyDec, firstWindow_aesSetup htier hK, revDec_eq_invCipher hK htier]
  | small =>
    simp only [aesDec, ht, smallDec, finalWindow_aesSetup ht hK, revDec_eq_invCipher hK (v := v) (by simp [ht])]

end Tiers

/-- Settles O34: in every tier the two functions are the cipher of the key and its inverse. -/
theorem variantsComputeTheSameCipher : Obligations.VariantsComputeTheSameCipher := by
  intro v v' K B hK hkb
  have hwords : keyWords v' = keyWords v := by rw [keyWords, keyWords, hkb]
  have hrounds : rounds v' = rounds v := by rw [rounds, rounds, hwords]
  rw [aesEnc_aesSetup hK, aesEnc_aesSetup (hK.trans hwords.symm), aesDec_aesSetup hK, aesDec_aesSetup hK, hrounds]
  exact ⟨rfl, rfl, invCipher_cipher _ _ _, rfl⟩

/-! ### SETKEY, ENC and DEC of a variant (41_aes_variants.md R172 to R174) -/

theorem exec_setkeyOf (v : Variant) (s : State) : exec (setkeyOf v) s = setKeyCommand v s := by cases v <;> rfl

theorem exec_encOf (v : Variant) (s : State) : exec (encOf v) s = cipherCommand aesEnc v s := by cases v <;> rfl

theorem exec_decOf (v : Variant) (s : State) : exec (decOf v) s = cipherCommand aesDec v s := by cases v <;> rfl

/-- The one range that a command of format KEY, KEYV, KEYVM or INPUT checks (R66, R88). -/
theorem operandsInRange_src {f : Format} (hf : f ∈ [Format.key, .keyV, .keyVM, .input]) (s : State) :
    operandsInRange f s = inRange s.params s.src.toNat s.len.toNat := by
  simp only [List.mem_cons, List.not_mem_nil, or_false] at hf
  obtain rfl | rfl | rfl | rfl := hf <;> simp [operandsInRange, rangesOk, formatRanges]

/-- Settles O31: SETKEY passes its two checks. -/
theorem setkeyKeysTheContext : Obligations.SetkeyKeysTheContext := by
  intro v s hlen hsrc
  have hrange : operandsInRange .key s = true := by rw [operandsInRange_src (by decide), hlen, hsrc]
  rw [exec_setkeyOf, setKeyCommand, if_pos hlen, if_pos hrange]
  rfl

/-- With a key and both blocks in DMEM a cipher command writes its block (R173, R174). -/
theorem cipherCommand_completes (f : AesCtx → Variant → Block → Block) {v : Variant} {s : State}
    (hkey : (ctxOf v s).keyed = true) (hsrc : inRange s.params s.src.toNat 16 = true)
    (hdst : inRange s.params s.dst.toNat 16 = true) :
    cipherCommand f v s = next { s with
      dmem := memWrite s.dmem s.dst.toNat (blockBytes (f (ctxOf v s) v (blockOfBytes (memRead s.dmem s.src.toNat 16))))
      code := .ok, busy := false } := by
  have hrange : operandsInRange .blk s = true := (rangesOk_pair _ _ _ _ _).2 ⟨hsrc, hdst⟩
  rw [cipherCommand, if_pos hkey, if_pos hrange]
  rfl

/-- Settles O32: ENC and DEC are one command on the two directions of the cipher. -/
theorem encAndDecWriteTheBlock : Obligations.EncAndDecWriteTheBlock := by
  intro v s hkey hsrc hdst
  rw [exec_encOf, exec_decOf]
  exact ⟨cipherCommand_completes aesEnc hkey hsrc hdst, cipherCommand_completes aesDec hkey hsrc hdst⟩

/-! ### XTS.SETKEY (43_xts.md R274) -/

theorem memRead_add (m : Memory) (a n k : Nat) : memRead m a (n + k) = memRead m a n ++ memRead m (a + n) k := by
  induction n generalizing a with
  | zero => simp [memRead]
  | succ n ih => rw [Nat.add_right_comm, memRead, ih, memRead, List.cons_append, Nat.add_assoc a 1 n, Nat.add_comm 1 n]

/-- A buffer that is cut at a word is two sequences of words (R11). -/
theorem words_append {n : Nat} {l : List Byte} (h : l.length = 4 * n) (l' : List Byte) :
    words (l ++ l') = words l ++ words l' := by
  induction n generalizing l with
  | zero => rw [List.eq_nil_of_length_eq_zero h]; rfl
  | succ n ih =>
    match l, h with
    | a :: b :: c :: d :: rest, h =>
      have hrest : rest.length = 4 * n := by simp only [List.length_cons] at h; omega
      simp only [List.cons_append, words, ih hrest]

/-- The words of a two-key buffer are those of its two halves (R274). -/
theorem words_memRead_two_mul (v : Variant) (m : Memory) (a : Nat) :
    words (memRead m a (2 * keyBytes v)) =
      words (memRead m a (keyBytes v)) ++ words (memRead m (a + keyBytes v) (keyBytes v)) := by
  rw [Nat.two_mul, memRead_add, words_append (by rw [memRead_length, keyBytes_eq])]

/-- Settles O47, mode by mode. -/
theorem xtsSetkeyKeysTheEngine : Obligations.XtsSetkeyKeysTheEngine := by
  intro s v hv hlen hsrc half
  have hvariant : argVariant s = some v := hv
  have hmode : s.len.toNat = xtsKeyBytes v (argM s) := hlen
  have hrange : operandsInRange .keyVM s = true := by rw [operandsInRange_src (by decide), hsrc]
  have hfirst : (words (memRead s.dmem s.src.toNat (keyBytes v))).length = keyWords v :=
    words_readSrc_length s (keyBytes_eq v)
  have hexec : exec .xtsSetkey s = next (complete { s with
      xts := xtsSetup v (argM s) (words (readSrc s.len.toNat s)) s.xts.sect }) := by
    simp only [exec, execXtsSetkey, hvariant]
    rw [if_pos hmode, if_pos hrange]
  rw [hexec]
  simp only [half, readSrc, xtsSetup]
  cases hm : argM s with
  | true =>
    simp only [hm, if_true] at hlen
    simp [hlen, List.take_of_length_le hfirst.le, complete, Xts.cleared]
  | false =>
    simp only [hm, Bool.false_eq_true, if_false] at hlen
    simp [hlen, words_memRead_two_mul, ← hfirst, complete, Xts.cleared]

end Sys2Proof.Machine

namespace Sys2Proof.Machine

open Host.Outcome

/-! ### A block as its sixteen bytes (00_scope.md R11; 42_eax.md R235, R236) -/

theorem blockByte_blockOfBytes (l : List Byte) {i : Nat} (hi : i < 16) : blockByte (blockOfBytes l) i = l.getD i 0 := by
  interval_cases i <;> rfl

theorem blockBytes_eq_map (B : Block) : blockBytes B = (List.range 16).map (blockByte B) := rfl

theorem blockOfBytes_congr {l l' : List Byte} (h : ∀ i < 16, l.getD i 0 = l'.getD i 0) :
    blockOfBytes l = blockOfBytes l' := by
  simp (disch := decide) only [blockOfBytes, h]

/-- Up to sixteen bytes are the first bytes of the block they fill. -/
theorem take_blockBytes_blockOfBytes {l : List Byte} (h : l.length ≤ 16) :
    (blockBytes (blockOfBytes l)).take l.length = l := by
  refine List.ext_getElem (by simpa using h) fun i hi hl => ?_
  have hi16 : i < 16 := by omega
  simp [blockBytes_eq_map, blockByte_blockOfBytes l hi16, hl]

/-- A byte written behind the bytes that a block holds (R235). -/
theorem setBlockByte_blockOfBytes {l : List Byte} (h : l.length < 16) (b : Byte) :
    setBlockByte (blockOfBytes l) l.length b = blockOfBytes (l ++ [b]) := by
  refine blockOfBytes_congr fun i hi => ?_
  have hold : (blockBytes (blockOfBytes l))[i]?.getD 0#8 = l[i]?.getD 0#8 := by
    simpa [blockByte] using blockByte_blockOfBytes l hi
  rcases Nat.lt_trichotomy i l.length with hlt | rfl | hgt
  · simp [hlt.ne', hold, List.getElem?_append_left hlt]
  · simp [h]
  · have hbeyond : (l ++ [b]).length ≤ i := by simpa using hgt
    simp [hgt.ne, hold, List.getElem?_eq_none hgt.le, List.getElem?_eq_none hbeyond]

@[simp] theorem blockToBE_blockOfBE (x : BitVec 128) : blockToBE (blockOfBE x) = x := by
  simp only [blockToBE, blockOfBE, intByte, BitVec.extractLsb'_append_extractLsb'_eq_extractLsb']
  exact BitVec.extractLsb'_eq_self

@[simp] theorem blockOfBE_blockToBE (B : Block) : blockOfBE (blockToBE B) = B := by
  simp only [blockToBE, blockOfBE, intByte, BitVec.extractLsb'_append_eq_ite]
  simp

/-! ### The MAC is OMAC (42_eax.md R233 to R238) -/

section Key

variable {e e' : Eax}

/-- SETKEY alone fixes the block cipher of the engine (R239). -/
theorem eaxCipher_congr (h : e'.key = e.key) : eaxCipher e' = eaxCipher e := by
  simp only [Eax.key, Prod.mk.injEq] at h
  obtain ⟨hv, hciph, _, _⟩ := h
  funext X
  rw [eaxCipher, eaxCipher, hv, hciph]

theorem mac_k1_congr (h : e'.key = e.key) : e'.mac.k1 = e.mac.k1 := congrArg (·.2.2.1) h

theorem mac_k2_congr (h : e'.key = e.key) : e'.mac.k2 = e.mac.k2 := congrArg (·.2.2.2) h

theorem SubkeysDerived.congr (hs : SubkeysDerived e) (h : e'.key = e.key) : SubkeysDerived e' := by
  rwa [SubkeysDerived, mac_k1_congr h, mac_k2_congr h, eaxCipher_congr h]

theorem omac_congr (h : e'.key = e.key) : omac e' = omac e := by
  funext t M
  rw [omac, omac, eaxCipher_congr h]

end Key

theorem macAbsorb_with_mac (e : Eax) (b : Byte) (m : Mac) : { macAbsorb e b with mac := m } = { e with mac := m } := by
  unfold macAbsorb macFlush
  split <;> rfl

/-- Absorbing changes the MAC alone (R235). -/
theorem macAbsorbAll_frame (e : Eax) (M : List Byte) :
    macAbsorbAll e M = { e with mac := (macAbsorbAll e M).mac } := by
  induction M generalizing e with
  | nil => rfl
  | cons b M ih => exact (ih (macAbsorb e b)).trans (macAbsorb_with_mac e b _)

/-- The MAC has put whole blocks into `acc`, and the bytes `P` wait in its pending block (R235). -/
structure MacHolds (e : Eax) (acc : Block) (P : List Byte) : Prop where
  acc : e.mac.acc = acc
  buf : e.mac.buf = blockOfBytes P
  blen : e.mac.blen = P.length
  fits : P.length ≤ 16

theorem macHolds_init (t : Byte) (e : Eax) : MacHolds (macInit t e) Block.zero (blockBytes (tagBlock t)) :=
  ⟨rfl, rfl, rfl, le_rfl⟩

section Holds

variable {e : Eax} {acc : Block} {P : List Byte}

/-- While there is room, a byte joins the pending block (R235). -/
theorem MacHolds.absorb_of_lt (h : MacHolds e acc P) (hP : P.length < 16) (b : Byte) :
    MacHolds (macAbsorb e b) acc (P ++ [b]) := by
  have hflush : macFlush e = e := if_neg (by rw [h.blen]; omega)
  rw [macAbsorb, hflush, h.buf, h.blen, setBlockByte_blockOfBytes hP]
  exact ⟨h.acc, rfl, by simp, by simpa using hP⟩

/-- A full pending block goes through the cipher before the next byte (R235). -/
theorem MacHolds.absorb_of_full (h : MacHolds e acc P) (hP : P.length = 16) (b : Byte) :
    MacHolds (macAbsorb e b) (eaxCipher e (xorBlock acc (blockOfBytes P))) [b] := by
  have hflush : macFlush e = { e with
      mac := { e.mac with acc := eaxCipher e (xorBlock acc (blockOfBytes P)), buf := Block.zero, blen := 0 } } := by
    rw [macFlush, if_pos (h.blen.trans hP), h.acc, h.buf]
  rw [macAbsorb, hflush]
  exact ⟨rfl, rfl, rfl, by simp⟩

/-- `MacFinal()` ends CMAC with the pending bytes (R237). -/
theorem MacHolds.macValue_eq (h : MacHolds e acc P) :
    macValue e = eaxCipher e (xorBlock acc (cmacLast e.mac.k1 e.mac.k2 P)) := by
  have hlast : macLastBlock e.mac = cmacLast e.mac.k1 e.mac.k2 P := by
    rw [macLastBlock, cmacLast, h.buf, h.blen, take_blockBytes_blockOfBytes h.fits]
  rw [macValue, h.acc, hlast]

end Holds

/-- From any point on, absorbing `M` and finalising is CMAC of the pending bytes and `M`, by the bytes of `M`: a byte
joins the pending block, or starts a block of CMAC. -/
theorem macValue_macAbsorbAll (M : List Byte) {e : Eax} {acc : Block} {P : List Byte} {n : Nat} (h : MacHolds e acc P)
    (hn : (P ++ M).length ≤ 16 * (n + 1)) :
    macValue (macAbsorbAll e M) = cmacFrom (eaxCipher e) e.mac.k1 e.mac.k2 (n + 1) acc (P ++ M) := by
  induction M generalizing e acc P n with
  | nil =>
    rw [List.append_nil, cmacFrom, if_pos h.fits]
    exact h.macValue_eq
  | cons b M ih =>
    have hkey := macAbsorb_key e b
    have hnext : ∀ {acc' P' k}, MacHolds (macAbsorb e b) acc' P' → (P' ++ M).length ≤ 16 * (k + 1) →
        macValue (macAbsorbAll e (b :: M)) =
          cmacFrom (eaxCipher e) e.mac.k1 e.mac.k2 (k + 1) acc' (P' ++ M) := by
      intro acc' P' k h' hk
      rw [← eaxCipher_congr hkey, ← mac_k1_congr hkey, ← mac_k2_congr hkey]
      exact ih h' hk
    rcases h.fits.lt_or_eq with hP | hP
    · rw [List.append_cons] at hn ⊢
      exact hnext (h.absorb_of_lt hP b) hn
    · have hlong : ¬(P ++ b :: M).length ≤ 16 := by simp; omega
      obtain ⟨k, rfl⟩ : ∃ k, n = k + 1 := ⟨n - 1, by omega⟩
      rw [cmacFrom, if_neg hlong, List.take_left' hP, List.drop_left' hP]
      exact hnext (h.absorb_of_full hP b) (by simp at hn ⊢; omega)

/-- `MacInit(t)`, absorbing `M` and `MacFinal()` compute `OMAC^t(M)` (R238). -/
theorem macValue_eq_omac {e : Eax} (h : SubkeysDerived e) (t : Byte) (M : List Byte) :
    macValue (macAbsorbAll (macInit t e) M) = omac e t M := by
  obtain ⟨hk1, hk2⟩ := h
  rw [omac, cmac, ← hk2, ← hk1]
  exact macValue_macAbsorbAll M (macHolds_init t e) (by omega)

theorem macAbsorbAll_append (e : Eax) (X Y : List Byte) :
    macAbsorbAll e (X ++ Y) = macAbsorbAll (macAbsorbAll e X) Y :=
  List.foldl_append

/-- Settles O36: the pending block and the chaining value follow CMAC's blocks. -/
theorem macIsOmac : Obligations.MacIsOmac := fun e t M X Y h =>
  ⟨macValue_eq_omac h t M, rfl, macAbsorbAll_append e X Y⟩

/-! ### SETKEY, SETIV and AAD (42_eax.md R240 to R242) -/

/-- Settles O35: ARG.V, LEN and the range pass, and the context is the one of R240. -/
theorem eaxSetkeyKeysTheEngine : Obligations.EaxSetkeyKeysTheEngine := by
  intro s v hv hlen hsrc c L
  have hvariant : argVariant s = some v := hv
  have hrange : operandsInRange .keyV s = true := (operandsInRange_src (by decide) s).trans hsrc
  simp only [exec, execEaxSetkey, hvariant, if_pos hlen, if_pos hrange]
  rfl

/-- The context that SETIV leaves (R241). -/
theorem eaxStart_eq {e : Eax} (h : SubkeysDerived e) (nonce : List Byte) :
    eaxStart nonce e = { e with
      ctr := omac e 0 nonce, tag := omac e 0 nonce, stream := Block.zero, posn := 16, hash := Block.zero, ph := .auth
      mac := { e.mac with acc := Block.zero, buf := tagBlock 1, blen := 16 } } := by
  have hkey : (macAbsorbAll (macInit 0 e) nonce).key = e.key := macAbsorbAll_key _ _
  rw [eaxStart, macValue_eq_omac h]
  generalize macAbsorbAll (macInit 0 e) nonce = a at hkey ⊢
  simp only [Eax.key, Prod.mk.injEq] at hkey
  obtain ⟨hv, hciph, hk1, hk2⟩ := hkey
  simp only [macClose, macInit, hv, hciph, hk1, hk2]

/-- Settles O37: a key is there and the range passes, and the nonce is absorbed as OMAC says. -/
theorem eaxSetivStartsASession : Obligations.EaxSetivStartsASession := by
  intro s hkey hsub hsrc N
  have hrange : operandsInRange .input s = true := (operandsInRange_src (by decide) s).trans hsrc
  simp only [exec, execEaxSetiv, if_neg hkey, if_pos hrange, eaxStart_eq hsub]
  rfl

/-- Settles O38: in AUTH with the range in DMEM the bytes are absorbed; of no bytes nothing is. -/
theorem eaxAadAbsorbsTheData : Obligations.EaxAadAbsorbsTheData := by
  intro s hauth hsrc
  have hrange : operandsInRange .input s = true := (operandsInRange_src (by decide) s).trans hsrc
  have hexec : exec .eaxAad s = next { s with
      eax := macAbsorbAll s.eax (memRead s.dmem s.src.toNat s.len.toNat), code := .ok, busy := false } := by
    simp [exec, execEaxAad, hauth, hrange, complete, readSrc]
  refine ⟨hexec, fun hlen => ?_⟩
  rw [hexec, hlen]
  rfl

/-! ### The stream and its keystream (42_eax.md R236, R239, R244, R245, R255) -/

theorem streamRef_append (d : Bool) (e : Eax) (X Y : List Byte) :
    streamRef d e (X ++ Y) =
      ((streamRef d e X).1 ++ (streamRef d (streamRef d e X).2 Y).1, (streamRef d (streamRef d e X).2 Y).2) := by
  induction X generalizing e with
  | nil => rfl
  | cons x X ih => simp only [List.cons_append, streamRef, ih]

/-- Decryption takes the keystream off again and absorbs the same ciphertext (R255). -/
theorem streamRef_true_streamRef_false (e : Eax) (X : List Byte) :
    streamRef true e (streamRef false e X).1 = (X, (streamRef false e X).2) := by
  induction X generalizing e with
  | nil => rfl
  | cons x X ih => simp [streamRef, ih]

/-- Settles O41, each law by the bytes of the message. -/
theorem eaxStreamLaws : Obligations.EaxStreamLaws := fun e d X Y =>
  ⟨streamRef_append d e X Y, streamRef_true_streamRef_false e X⟩

/-- Keystream block `q` counted from the current one: STREAM, then the cipher of the counter and its successors (R236,
R239). -/
def ksBlock (e : Eax) : Nat → Block
  | 0 => e.stream
  | q + 1 => eaxCipher e (blockOfBE (blockToBE e.ctr + BitVec.ofNat 128 q))

/-- Keystream byte `j` counted from the next one. -/
def ksByte (e : Eax) (j : Nat) : Byte := blockByte (ksBlock e ((e.posn + j) / 16)) ((e.posn + j) % 16)

section Keystream

variable {e : Eax} (h : e.posn ≤ 16)

include h

/-- The refill moves on to the next block and takes no byte. -/
theorem ksByte_ksRefill (j : Nat) : ksByte (ksRefill e) j = ksByte e j := by
  rcases h.lt_or_eq with hlt | heq
  · rw [ksRefill, if_neg hlt.ne]
  · have hblock : ∀ q, ksBlock (ksRefill e) q = ksBlock e (q + 1) := by
      intro q
      rw [ksRefill, if_pos heq]
      cases q with
      | zero => simp [ksBlock]
      | succ q =>
        simp only [ksBlock, ctrInc, blockToBE_blockOfBE, Nat.add_comm q 1, BitVec.ofNat_add, BitVec.add_assoc]
        rfl
    have hposn : (ksRefill e).posn = 0 := by rw [ksRefill, if_pos heq]
    rw [ksByte, ksByte, hblock, hposn, heq, Nat.zero_add, Nat.add_mod_left, Nat.add_div_left _ (by decide)]

theorem ksNext_fst : (ksNext e).1 = ksByte e 0 := by
  have hlt := ksRefill_posn_lt h
  rw [← ksByte_ksRefill h, ksByte, Nat.add_zero, Nat.div_eq_of_lt hlt, Nat.mod_eq_of_lt hlt]
  rfl

theorem ksByte_ksNext (j : Nat) : ksByte (ksNext e).2 j = ksByte e (j + 1) := by
  rw [← ksByte_ksRefill h, ksByte, ksByte, ksNext_posn, Nat.add_right_comm, Nat.add_assoc]
  rfl

theorem ksNext_posn_le : (ksNext e).2.posn ≤ 16 := ksRefill_posn_lt h

theorem keystream_getD {n j : Nat} (hj : j < n) : (keystream n e).getD j 0 = ksByte e j := by
  induction n generalizing e j with
  | zero => omega
  | succ n ih =>
    cases j with
    | zero => exact ksNext_fst h
    | succ j => rw [keystream, List.getD_cons_succ, ih (ksNext_posn_le h) (by omega), ksByte_ksNext h]

end Keystream

/-- Settles O42: with the current block used up, byte `j` stands in block `j / 16 + 1` from it. -/
theorem keystreamEncryptsTheCounter : Obligations.KeystreamEncryptsTheCounter := by
  intro e n j hposn hj
  rw [keystream_getD hposn.le hj, ksByte, hposn, Nat.add_mod_left, Nat.add_div_left _ (by decide)]
  rfl

/-! ### The tag of a session (42_eax.md R243, R246, R248) -/

/-- The context without its keystream. -/
def Eax.withoutKeystream (e : Eax) : Eax := { e with ctr := Block.zero, stream := Block.zero, posn := 0 }

@[simp] theorem ksNext_withoutKeystream (e : Eax) : (ksNext e).2.withoutKeystream = e.withoutKeystream := by
  simp only [ksNext, ksRefill]
  split <;> rfl

theorem macAbsorb_withoutKeystream (e : Eax) (b : Byte) :
    (macAbsorb e b).withoutKeystream = macAbsorb e.withoutKeystream b := by
  unfold macAbsorb macFlush
  have hblen : e.withoutKeystream.mac.blen = e.mac.blen := rfl
  rw [hblen]
  split <;> rfl

/-- But for the keystream a stream absorbs its ciphertext and does nothing else (R244, R245). -/
theorem streamRef_withoutKeystream (d : Bool) (e : Eax) (X : List Byte) :
    (streamRef d e X).2.withoutKeystream =
      macAbsorbAll e.withoutKeystream (ciphertextOf d X (streamRef d e X).1) := by
  induction X generalizing e with
  | nil => cases d <;> rfl
  | cons x X ih =>
    simp only [streamRef, ih, macAbsorb_withoutKeystream, ksNext_withoutKeystream]
    cases d <;> rfl

/-- What a stream keeps in CIPHER, and the MAC value it leads to (R244, R245). -/
theorem streamRef_snd {e : Eax} (h : SubkeysDerived e) (hopen : macInit 2 e = e) (d : Bool) (X : List Byte) :
    let r := streamRef d e X
    r.2.ph = e.ph ∧ r.2.tag = e.tag ∧ r.2.hash = e.hash ∧ macValue r.2 = omac e 2 (ciphertextOf d X r.1) := by
  intro r
  have hmac : macInit 2 e.withoutKeystream = e.withoutKeystream := congrArg Eax.withoutKeystream hopen
  have hr : r.2.withoutKeystream = macAbsorbAll e.withoutKeystream (ciphertextOf d X r.1) :=
    streamRef_withoutKeystream d e X
  have hvalue : macValue r.2 = macValue r.2.withoutKeystream := rfl
  rw [hvalue, hr, ← hmac, macValue_eq_omac (e := e.withoutKeystream) h]
  rw [macAbsorbAll_frame] at hr
  exact ⟨(congrArg Eax.ph hr :), (congrArg Eax.tag hr :), (congrArg Eax.hash hr :), rfl⟩

/-- In CIPHER `Finalize()` adds HASH and the value of the MAC to the tag (R246). -/
theorem finalize_tag_of_cipher {e : Eax} (h : e.ph = .cipher) :
    (finalize e).tag = xorBlock (xorBlock e.tag e.hash) (macValue e) := by
  rw [finalize_of_open (.inr h), closeAuth_of_ne_auth (by simp [h])]

/-- After the associated data of a session (R241, R242). -/
theorem macAbsorbAll_eaxStart {e : Eax} (h : SubkeysDerived e) (nonce A : List Byte) :
    let a := macAbsorbAll (eaxStart nonce e) A
    a.key = e.key ∧ a.ph = .auth ∧ a.tag = omac e 0 nonce ∧ macValue a = omac e 1 A := by
  intro a
  have hkey : (eaxStart nonce e).key = e.key := eaxStart_key nonce e
  have hopen : macInit 1 (eaxStart nonce e) = eaxStart nonce e := rfl
  have ha : a = { eaxStart nonce e with mac := a.mac } := macAbsorbAll_frame _ _
  refine ⟨(macAbsorbAll_key _ _).trans hkey, by rw [ha]; rfl, ?_, ?_⟩
  · rw [ha, eaxStart_eq h]
  · rw [← omac_congr hkey, ← macValue_eq_omac (h.congr hkey), hopen]

/-- Settles O43: N is in the tag from SETIV on, H goes into HASH when the header MAC is closed, and C is the value of
the MAC that the stream leaves. -/
theorem sessionTagIsTheXorOfTheThreeMacs : Obligations.SessionTagIsTheXorOfTheThreeMacs := by
  intro e d nonce A X h r
  obtain ⟨hkey, hauth, htag, hvalue⟩ := macAbsorbAll_eaxStart h nonce A
  have hclose := closeAuth_of_auth hauth
  have hckey := (closeAuth_key (macAbsorbAll (eaxStart nonce e) A)).trans hkey
  obtain ⟨hrph, hrtag, hrhash, hrvalue⟩ := streamRef_snd (h.congr hckey) (by rw [hclose]; rfl) d X
  have hcipher : r.2.ph = .cipher := hrph.trans (closeAuth_ph (.inl hauth))
  refine ⟨finalize_ph (by simp [hcipher]) (by simp [hcipher]), ?_⟩
  have hN : r.2.tag = omac e 0 nonce := hrtag.trans (by rw [hclose]; exact htag)
  have hH : r.2.hash = omac e 1 A := hrhash.trans (by rw [hclose]; exact hvalue)
  rw [finalize_tag_of_cipher hcipher, hN, hH, hrvalue, omac_congr hckey]

/-! ### EAX.CHKTAG (42_eax.md R249) -/

/-- An or of bytes is zero exactly when every byte is. -/
theorem foldl_or_eq_zero (l : List Byte) (d : Byte) :
    l.foldl (fun d e => d ||| e) d = 0#8 ↔ d = 0#8 ∧ ∀ b ∈ l, b = 0#8 := by
  induction l generalizing d with
  | nil => simp
  | cons b l ih => simp [ih, and_assoc]

/-- The bytes compared are equal exactly when their differences are all zero. -/
theorem forall_zipWith_xor_eq_zero {X T : List Byte} (h : X.length ≤ T.length) :
    (∀ b ∈ List.zipWith (fun x t => x ^^^ t) X T, b = 0#8) ↔ X = T.take X.length := by
  induction X generalizing T with
  | nil => simp
  | cons x X ih =>
    cases T with
    | nil => simp at h
    | cons t T => simp [ih (Nat.le_of_succ_le_succ h)]

theorem tagDifference_eq_zero {X T : List Byte} (h : X.length ≤ T.length) :
    tagDifference X T = 0 ↔ X = T.take X.length := by
  rw [← forall_zipWith_xor_eq_zero h]
  exact (foldl_or_eq_zero _ 0).trans (and_iff_right rfl)

/-- The comparison of the `min(len, 16)` bytes read succeeds exactly as R249 says. -/
theorem tagMatches_iff {len : Nat} {X : List Byte} (tag : Block) (h : X.length = min len 16) :
    tagMatches len X tag = true ↔ 1 ≤ len ∧ len ≤ 16 ∧ X = (blockBytes tag).take len := by
  have hdiff : tagDifference X (blockBytes tag) = 0 ↔ X = (blockBytes tag).take (min len 16) := by
    rw [tagDifference_eq_zero (by simp [h]), h]
  rw [tagMatches]
  by_cases hlen : 1 ≤ len ∧ len ≤ 16
  · obtain ⟨hlo, hhi⟩ := hlen
    rw [Nat.min_eq_left hhi] at hdiff
    simp [← hdiff, hlo, hhi, Nat.pos_iff_ne_zero.1 hlo]
  · have hout : len = 0 ∨ 16 < len := by omega
    rcases hout with h0 | h17
    · simp [h0]
    · simp [h17]

/-- Settles O45: with both phases that raise excluded and the range in DMEM, EAX.CHKTAG compares. -/
theorem eaxChktagComparesTheTag : Obligations.EaxChktagComparesTheTag := by
  intro s hkey hiv hsrc
  have hrange : operandsInRange .check s = true := (Bool.and_true _).trans hsrc
  have hmatch : tagMatches s.len.toNat (readSrc (tagBytes s) s) (finalize s.eax).tag = true ↔
      1 ≤ s.len.toNat ∧ s.len.toNat ≤ 16 ∧
        memRead s.dmem s.src.toNat s.len.toNat = (blockBytes (finalize s.eax).tag).take s.len.toNat := by
    have hread : (readSrc (tagBytes s) s).length = min s.len.toNat 16 := memRead_length _ _ _
    refine (tagMatches_iff _ hread).trans (and_congr_right fun _ => and_congr_right fun hhi => ?_)
    rw [readSrc, tagBytes, Nat.min_eq_left hhi]
  simp only [exec, execEaxChktag, if_neg hkey, if_neg hiv, if_pos hrange, hmatch]
  exact ⟨fun h => by rw [if_pos h]; rfl, fun h => by rw [if_neg h]; rfl⟩

end Sys2Proof.Machine

namespace Sys2Proof.Machine

open Host.Outcome

/-! ### XTS.SETSECT and XTS.GETSECT (43_xts.md R276, R277) -/

/-- The size check accepts exactly the sizes R276 names. -/
theorem sectorSizeOk_iff (p : Params) (n : Nat) :
    sectorSizeOk p n = true ↔ 0 < n ∧ n % 16 = 0 ∧ n ≤ p.sectorMax := by
  simp [sectorSizeOk, Nat.pos_iff_ne_zero, and_assoc]

/-- Settles O49: the size check decides between completion and ERR_LEN. -/
theorem xtsSectorSizeCommands : Obligations.XtsSectorSizeCommands := by
  intro s
  have hexec : exec .xtsSetsect s = next (if sectorSizeOk s.params s.len.toNat
      then complete { s with xts := { s.xts with sect := s.len } } else raise .errLen s) := rfl
  simp only [hexec, sectorSizeOk_iff]
  refine ⟨fun hok => ?_, fun hbad => ?_, rfl⟩
  · rw [if_pos hok]; rfl
  · rw [if_neg hbad]; rfl

/-! ### The block functions of XTS (43_xts.md R273) -/

/-- Under a key that SETKEY made, the cipher's two directions undo each other in every tier (R163 to R168, R170). -/
theorem aesDec_aesEnc_aesSetup {v : Variant} {K : List Quad} (hK : K.length = keyWords v) (P : Block) :
    aesDec (aesSetup v K) v (aesEnc (aesSetup v K) v P) = P := by
  rw [aesEnc_aesSetup hK, aesDec_aesSetup hK, invCipher_cipher]

/-- Settles O52: the tweak added last is taken off first, and between the two the cipher is undone. -/
theorem xtsDecryptionUndoesEncryption : Obligations.XtsDecryptionUndoesEncryption := by
  intro x K t P hK hdata
  refine ⟨rfl, rfl, ?_⟩
  calc xtsDec x t (xtsEnc x t P)
      = xorBlock (aesDec x.data x.v (aesEnc x.data x.v (xorBlock P t))) t := by
        rw [xtsDec, xtsEnc, xorBlock_self_right]
    _ = xorBlock (xorBlock P t) t := by rw [hdata, aesDec_aesEnc_aesSetup hK]
    _ = P := xorBlock_self_right P t

end Sys2Proof.Machine

namespace Sys2Proof.Machine

open Host.Outcome

/-! ### NOP (44_system.md R301) -/

/-- A word whose RSVD is not zero decodes to no command (R87). -/
theorem not_decode_of_rsvd_ne_zero {c : Word} (h : rsvd c ≠ 0) : ¬∃ i, decode c = .ok i := by
  rintro ⟨i, hi⟩
  rw [decode, if_pos h] at hi
  cases hi

theorem exec_nop (s : State) : exec .nop s = next (complete s) := rfl

/-- Settles O18: NOP completes in every state, and 0x100 is a reserved word, which raises ERR_OPC. -/
theorem nopOnlyReportsOk : Obligations.NopOnlyReportsOk := by
  have hreserved : rsvd 0x00000100 ≠ 0 := by decide
  refine ⟨decode_eq_ok_iff_eq_encode.2 rfl, rfl, exec_nop, fun s => ?_⟩
  exact issue_of_not_decode (not_decode_of_rsvd_ne_zero hreserved) s

end Sys2Proof.Machine

namespace Sys2Proof.Machine

open Host.Outcome

/-! ### Reset and the CLEAR commands (70_reset_and_hazards.md R334) -/

theorem exec_eaxClear (s : State) : exec .eaxClear s = next (complete { s with eax := Eax.cleared }) := rfl

theorem exec_xtsClear (s : State) :
    exec .xtsClear s = next (complete { s with xts := Xts.cleared s.xts.sect }) := rfl

/-- XTS.SECT is the one field of the reset context that XTS.CLEAR does not restore. -/
theorem xts_cleared_eq_reset_with_sect (n : Word) : Xts.cleared n = { State.reset.xts with sect := n } := rfl

/-- Settles O10: each CLEAR command completes with its own context cleared, which is the context reset leaves, XTS.SECT
apart; completing and clearing a context write no register but STATUS. -/
theorem clearLeavesTheResetState : Obligations.ClearLeavesTheResetState := by
  refine ⟨rfl, rfl, fun s => ⟨fun v => ?aes, ⟨_, exec_eaxClear s, rfl, rfl⟩, ⟨_, exec_xtsClear s, ?xts, rfl⟩⟩⟩
  case aes =>
    have hcleared : ctxOf v (complete (setCtx v AesCtx.cleared s)) = ctxOf v State.reset := by
      rw [ctxOf_complete, ctxOf_setCtx_self, ctxOf_reset]
    exact ⟨_, exec_clearOf v s, hcleared, rfl⟩
  case xts => exact xts_cleared_eq_reset_with_sect s.xts.sect

end Sys2Proof.Machine
